-- ==== Sys2Proof/Syntax.lean ====
section
/-! DEFINITION. The command set BITOPS-1 (spec/30_encoding.md rules R71, R72, R80): 18 operations at
widths 32 and 64, one constructor per row of spec/opcode_table.json. A command word has no operand
field (R70), so no constructor takes an argument. -/

namespace Sys2Proof

/-- A command: an operation (OP) at a width (the suffix). -/
inductive Instr where
  /-- GET.W32, CMD = 0x00 (R104) -/
  | getW32
  /-- GETMASKED.W32, CMD = 0x01 (R106) -/
  | getmaskedW32
  /-- SET.W32, CMD = 0x02 (R108) -/
  | setW32
  /-- SETMASKED.W32, CMD = 0x03 (R110) -/
  | setmaskedW32
  /-- TOGGLE.W32, CMD = 0x04 (R112) -/
  | toggleW32
  /-- TOGGLEMASKED.W32, CMD = 0x05 (R114) -/
  | togglemaskedW32
  /-- SWAP.W32, CMD = 0x06 (R116) -/
  | swapW32
  /-- SWAPFIELD.W32, CMD = 0x07 (R118) -/
  | swapfieldW32
  /-- COUNT.W32, CMD = 0x08 (R142) -/
  | countW32
  /-- PARITY.W32, CMD = 0x09 (R144) -/
  | parityW32
  /-- PARITYN.W32, CMD = 0x0A (R146) -/
  | paritynW32
  /-- SCAN.W32, CMD = 0x0B (R162) -/
  | scanW32
  /-- SCANREVERSE.W32, CMD = 0x0C (R164) -/
  | scanreverseW32
  /-- MERGE.W32, CMD = 0x0D (R180) -/
  | mergeW32
  /-- INTERLEAVE.W32, CMD = 0x0E (R182) -/
  | interleaveW32
  /-- ROTATE.W32, CMD = 0x0F (R184) -/
  | rotateW32
  /-- REVERSE.W32, CMD = 0x10 (R186) -/
  | reverseW32
  /-- SIGNEXTEND.W32, CMD = 0x11 (R188) -/
  | signextendW32
  /-- GET.W64, CMD = 0x20 (R105) -/
  | getW64
  /-- GETMASKED.W64, CMD = 0x21 (R107) -/
  | getmaskedW64
  /-- SET.W64, CMD = 0x22 (R109) -/
  | setW64
  /-- SETMASKED.W64, CMD = 0x23 (R111) -/
  | setmaskedW64
  /-- TOGGLE.W64, CMD = 0x24 (R113) -/
  | toggleW64
  /-- TOGGLEMASKED.W64, CMD = 0x25 (R115) -/
  | togglemaskedW64
  /-- SWAP.W64, CMD = 0x26 (R117) -/
  | swapW64
  /-- SWAPFIELD.W64, CMD = 0x27 (R119) -/
  | swapfieldW64
  /-- COUNT.W64, CMD = 0x28 (R143) -/
  | countW64
  /-- PARITY.W64, CMD = 0x29 (R145) -/
  | parityW64
  /-- PARITYN.W64, CMD = 0x2A (R147) -/
  | paritynW64
  /-- SCAN.W64, CMD = 0x2B (R163) -/
  | scanW64
  /-- SCANREVERSE.W64, CMD = 0x2C (R165) -/
  | scanreverseW64
  /-- MERGE.W64, CMD = 0x2D (R181) -/
  | mergeW64
  /-- INTERLEAVE.W64, CMD = 0x2E (R183) -/
  | interleaveW64
  /-- ROTATE.W64, CMD = 0x2F (R185) -/
  | rotateW64
  /-- REVERSE.W64, CMD = 0x30 (R187) -/
  | reverseW64
  /-- SIGNEXTEND.W64, CMD = 0x31 (R189) -/
  | signextendW64
deriving DecidableEq, Repr

end Sys2Proof
end

