-- ==== Sys2Proof/Word.lean ====
section
/-! DEFINITION. The port widths of the extra-bit BitOps core (spec/10_state.md rules R20 and R22).
Bit `k` of every value has weight `2^k` (spec/20_memory.md rule R51), which is `BitVec.getLsbD`. -/

namespace Sys2Proof

/-- The command port CMD: 8 bits (R20, R70). -/
abbrev Command := BitVec 8

/-- A data port A, B or C, and the result port RES: 64 bits (R20, R22). -/
abbrev Data := BitVec 64

/-- A scalar port K0, K1 or K2: 32 bits, always read as a signed integer (R10, R20). -/
abbrev Scalar := BitVec 32

/-- A one-bit value: the illegal-command port ILL (R22) and the value of U_SETBIT. -/
abbrev Bit := BitVec 1

end Sys2Proof
end

