-- ==== Sys2Proof/WellFormed.lean ====
section
/-! DEFINITION. Which command words are legal (spec/30_encoding.md rule R78). A term of `Instr` has no
operand field (R70: every operand arrives on a port), so no term of it is ill formed: what can be
ill formed is the word on port CMD, and the two checks below are on it. -/

namespace Sys2Proof

/-- RSV = CMD[7:6] must be 00 (R70). -/
def reservedBitsClear (cmd : Command) : Bool := cmd.extractLsb' 6 2 == 0#2

/-- OP = CMD[4:0] must be at most 0x11 (R71). -/
def operationAssigned (cmd : Command) : Bool := decide (cmd.extractLsb' 0 5 ≤ 0x11#5)

/-- A command word is legal if and only if both checks pass (R78). -/
def legalWord (cmd : Command) : Bool := reservedBitsClear cmd && operationAssigned cmd

end Sys2Proof
end

