-- ==== Sys2Proof/Decode.lean ====
section
/-! DEFINITION. Decoding the command port, and the encoder (spec/30_encoding.md rules R70 to R72, R78
to R80). The decoder is total on all 256 words and rejects an illegal word by name. -/

namespace Sys2Proof

/-- Why a command word is illegal (R78). Both lead to the same evaluation, ILL = 1 and RES = 0. -/
inductive DecodeError where
  /-- RSV = CMD[7:6] is not 00: words 0x40 to 0xFF. -/
  | reservedBits
  /-- OP is 0x12 to 0x1F: words 0x12 to 0x1F and 0x32 to 0x3F. -/
  | reservedOperation
deriving DecidableEq, Repr

/-- What a command word is: one of the 36 commands, or illegal (R79). -/
inductive Decoded where
  | command (i : Instr)
  | illegal (e : DecodeError)
deriving DecidableEq, Repr

/-- OP, CMD[4:0] (R70). -/
def fieldOp (cmd : Command) : BitVec 5 := cmd.extractLsb' 0 5

/-- W, CMD[5] (R70, R72). -/
def fieldW (cmd : Command) : BitVec 1 := cmd.extractLsb' 5 1

/-- RSV, CMD[7:6] (R70). -/
def fieldRsv (cmd : Command) : BitVec 2 := cmd.extractLsb' 6 2

/-- The operation map of R71 at W = 0. -/
def instrW32 : Nat → Option Instr
  | 0x00 => some .getW32
  | 0x01 => some .getmaskedW32
  | 0x02 => some .setW32
  | 0x03 => some .setmaskedW32
  | 0x04 => some .toggleW32
  | 0x05 => some .togglemaskedW32
  | 0x06 => some .swapW32
  | 0x07 => some .swapfieldW32
  | 0x08 => some .countW32
  | 0x09 => some .parityW32
  | 0x0A => some .paritynW32
  | 0x0B => some .scanW32
  | 0x0C => some .scanreverseW32
  | 0x0D => some .mergeW32
  | 0x0E => some .interleaveW32
  | 0x0F => some .rotateW32
  | 0x10 => some .reverseW32
  | 0x11 => some .signextendW32
  | _ => none

/-- The operation map of R71 at W = 1. -/
def instrW64 : Nat → Option Instr
  | 0x00 => some .getW64
  | 0x01 => some .getmaskedW64
  | 0x02 => some .setW64
  | 0x03 => some .setmaskedW64
  | 0x04 => some .toggleW64
  | 0x05 => some .togglemaskedW64
  | 0x06 => some .swapW64
  | 0x07 => some .swapfieldW64
  | 0x08 => some .countW64
  | 0x09 => some .parityW64
  | 0x0A => some .paritynW64
  | 0x0B => some .scanW64
  | 0x0C => some .scanreverseW64
  | 0x0D => some .mergeW64
  | 0x0E => some .interleaveW64
  | 0x0F => some .rotateW64
  | 0x10 => some .reverseW64
  | 0x11 => some .signextendW64
  | _ => none

/-- The decoder (R78, R79): each word is one of the 36 commands of R80 or illegal. -/
def decode (cmd : Command) : Decoded :=
  if fieldRsv cmd ≠ 0#2 then .illegal .reservedBits
  else
    match (if fieldW cmd = 0#1 then instrW32 else instrW64) (fieldOp cmd).toNat with
    | some i => .command i
    | none => .illegal .reservedOperation

/-- The W field of a command (R72). -/
def Instr.widthField : Instr → BitVec 1
  | .getW32 | .getmaskedW32 | .setW32 | .setmaskedW32 | .toggleW32 | .togglemaskedW32
  | .swapW32 | .swapfieldW32 | .countW32 | .parityW32 | .paritynW32 | .scanW32
  | .scanreverseW32 | .mergeW32 | .interleaveW32 | .rotateW32 | .reverseW32 | .signextendW32 => 0#1
  | .getW64 | .getmaskedW64 | .setW64 | .setmaskedW64 | .toggleW64 | .togglemaskedW64
  | .swapW64 | .swapfieldW64 | .countW64 | .parityW64 | .paritynW64 | .scanW64
  | .scanreverseW64 | .mergeW64 | .interleaveW64 | .rotateW64 | .reverseW64 | .signextendW64 => 1#1

/-- The operand width of a command in bits (R72). -/
def Instr.width (i : Instr) : Nat := if i.widthField = 0#1 then 32 else 64

/-- The OP field of a command (R71). -/
def Instr.opField : Instr → BitVec 5
  | .getW32 | .getW64 => 0x00#5
  | .getmaskedW32 | .getmaskedW64 => 0x01#5
  | .setW32 | .setW64 => 0x02#5
  | .setmaskedW32 | .setmaskedW64 => 0x03#5
  | .toggleW32 | .toggleW64 => 0x04#5
  | .togglemaskedW32 | .togglemaskedW64 => 0x05#5
  | .swapW32 | .swapW64 => 0x06#5
  | .swapfieldW32 | .swapfieldW64 => 0x07#5
  | .countW32 | .countW64 => 0x08#5
  | .parityW32 | .parityW64 => 0x09#5
  | .paritynW32 | .paritynW64 => 0x0A#5
  | .scanW32 | .scanW64 => 0x0B#5
  | .scanreverseW32 | .scanreverseW64 => 0x0C#5
  | .mergeW32 | .mergeW64 => 0x0D#5
  | .interleaveW32 | .interleaveW64 => 0x0E#5
  | .rotateW32 | .rotateW64 => 0x0F#5
  | .reverseW32 | .reverseW64 => 0x10#5
  | .signextendW32 | .signextendW64 => 0x11#5

/-- The command word of a command, laid out by R70: RSV = 00, then W, then OP. -/
def encode (i : Instr) : Command := 0#2 ++ i.widthField ++ i.opField

/-- What the decoder reads from an `nbits`-bit instruction whose bits are `w`. Every command is exactly
one 8-bit word (R70, R79), so nothing longer is a command. Log entry 12. -/
def decodeTableWord (nbits w : Nat) : Option Instr :=
  if nbits ≤ 8 then
    match decode (BitVec.ofNat 8 (w % 2 ^ nbits)) with
    | .command i => some i
    | .illegal _ => none
  else none

end Sys2Proof
end

