-- ==== Sys2Proof/Config.lean ====
section
/-! DEFINITION. What the spec leaves open (spec/00_scope.md rule R8, spec/93_implementation_defined.md).
Every constant here is opaque: no proof can learn a value of it, so a claim that mentions one holds
whatever the hardware gives. Each `u…` function takes exactly the inputs its rule lists (R77), so it
is deterministic and independent of every port the command does not read. Log entry 1. -/

namespace Sys2Proof.Config

/-- U_GET(W, a, i): GET with an index outside [0, W) (R104, R105). -/
opaque uGet (w : Nat) (a : BitVec w) (i : Int) : BitVec w

/-- U_SET(W, a, i, v): SET with an index outside [0, W), whatever v is (R108, R109). -/
opaque uSet (w : Nat) (a : BitVec w) (i v : Int) : BitVec w

/-- U_SETBIT(W, a, i, v), one bit: SET with a bitValue outside {0, 1}, at bit i only (R102). -/
opaque uSetBit (w : Nat) (a : BitVec w) (i v : Int) : BitVec 1

/-- U_SETM(W, a, b, v): SETMASKED with a bitValue outside {0, 1}, used only under mask b (R102). -/
opaque uSetM (w : Nat) (a b : BitVec w) (v : Int) : BitVec w

/-- U_TOGGLE(W, a, i): TOGGLE with an index outside [0, W) (R112, R113). -/
opaque uToggle (w : Nat) (a : BitVec w) (i : Int) : BitVec w

/-- U_SWAP(W, a, i, j): SWAP with an index outside [0, W) (R116, R117). -/
opaque uSwap (w : Nat) (a : BitVec w) (i j : Int) : BitVec w

/-- U_SWAPFIELD(W, a, i, j, n): SWAPFIELD outside the domain of R103 (R118, R119). -/
opaque uSwapField (w : Nat) (a : BitVec w) (i j n : Int) : BitVec w

/-- U_PARITYN(W, a, n): PARITYN with a group size outside [1, W] (R146, R147). -/
opaque uParityN (w : Nat) (a : BitVec w) (n : Int) : BitVec w

/-- U_ROTATE(W, a, n): ROTATE with an amount outside (-W, W) (R184, R185). -/
opaque uRotate (w : Nat) (a : BitVec w) (n : Int) : BitVec w

/-- U_SIGNEXTEND(W, a, w): SIGNEXTEND with a field width outside [1, W] (R188, R189). -/
opaque uSignExtend (w : Nat) (a : BitVec w) (n : Int) : BitVec w

/-- T_SETTLE, the settle time, open in the spec (R246), in a time unit of the reader's choice. -/
opaque tSettle : Nat

/-- What RES may show on an observation made too early (R241, R244): any value, a fresh one for
each observation number. -/
opaque unsettledRes (observation : Nat) : BitVec 64

/-- What ILL may show on an observation made too early (R241, R244). -/
opaque unsettledIll (observation : Nat) : BitVec 1

end Sys2Proof.Config
end

