-- ==== Sys2Proof/Machine/Rom.lean ====
section
/-! DEFINITION. The contents of the two constant ROMs (spec/10_state.md rules R30 to R33): fixed when
the block is built, read only by the bit-scan encoder. -/

namespace Sys2Proof.Machine

/-- ROM_MOD37, 37 entries of 6 bits (R30): entry `2^k mod 37` holds k, entry 0 holds 32, and the four
unreachable entries 7, 14, 19 and 28 hold 0. -/
def romMod37Contents : Vector (BitVec 6) 37 :=
  #v[32, 0, 1, 26, 2, 23, 27, 0, 3, 16,
     24, 30, 28, 11, 0, 13, 4, 7, 17, 0,
     25, 22, 31, 15, 29, 10, 12, 6, 0, 21,
     14, 9, 5, 20, 8, 19, 18]

/-- ROM_DB, 32 entries of 5 bits (R31): entry `((2^(k+1) - 1) * 0x07C4ACDD mod 2^32) >> 27` holds k. -/
def romDbContents : Vector (BitVec 5) 32 :=
  #v[0, 9, 1, 10, 13, 21, 2, 29, 11, 14, 16, 18, 22, 25, 3, 30,
     8, 12, 20, 28, 15, 17, 24, 7, 19, 27, 23, 6, 26, 5, 4, 31]

end Sys2Proof.Machine
end

