-- ==== Sys2Proof/Machine/State.lean ====
section
/-! DEFINITION. The state of the block (spec/10_state.md rules R20, R22 and R34): its nine ports and its
two constant ROMs. The block has no register, program counter, flag, control register or memory
(R23 to R28, R50), so there is nothing else to hold. -/

namespace Sys2Proof.Machine

/-- The input ports that one evaluation reads together (R20, R54). -/
structure Inputs where
  cmd : Command
  a : Data
  b : Data
  c : Data
  k0 : Scalar
  k1 : Scalar
  k2 : Scalar
deriving DecidableEq, Repr

/-- The output ports that one evaluation produces together (R22, R54). -/
structure Outputs where
  res : Data
  ill : Bit
deriving DecidableEq, Repr

/-- The block: what the host drives, what the host last sampled, and the ROMs. RES and ILL are
combinational outputs, not storage (R34): they hold the outputs of the last evaluation, and no
meaning reads them. The ROMs are constants that the spec lists as state (R34); no meaning writes
them. Log entries 2 and 6. -/
structure State where
  /-- Port CMD. -/
  cmd : Command
  /-- Port A. -/
  a : Data
  /-- Port B. -/
  b : Data
  /-- Port C. -/
  c : Data
  /-- Port K0. -/
  k0 : Scalar
  /-- Port K1. -/
  k1 : Scalar
  /-- Port K2. -/
  k2 : Scalar
  /-- Port RES. -/
  res : Data
  /-- Port ILL. -/
  ill : Bit
  /-- ROM_MOD37, read by SCAN (R29, R30). -/
  romMod37 : Vector (BitVec 6) 37
  /-- ROM_DB, read by SCANREVERSE (R29, R31). -/
  romDb : Vector (BitVec 5) 32
deriving DecidableEq, Repr

/-- The faults of the block: none. "There is no fault, stuck or hang outcome" (R223), and "the block
raises no exception" (R220), so nothing raises one; the type is empty. Safe. -/
inductive Fault where
deriving DecidableEq, Repr

/-- Why the model has no answer. -/
inductive Refusal where
  /-- Raised by an arm of `exec` for an instruction that has no meaning yet: no arm does. Safe. -/
  | notModelled (mnemonic : String)
  /-- Raised by `drive`, when two or more hosts present inputs to this one instance at once: their
  arbitration is outside the block (R58), and spec/93_implementation_defined.md section 3 says to
  refuse it. No evaluation of a command raises it. Safe. Log entry 8. -/
  | concurrentDriving
deriving DecidableEq, Repr

/-- The answer of every meaning. -/
abbrev StepResult := Host.Outcome State Fault Refusal

/-- Power-up (R34, R240 to R242): the ROMs hold their contents. The spec gives no value for the ports:
the input ports are the host's (DESIGN CHOICE 0, log entry 3) and the outputs are unspecified until
T_SETTLE (DESIGN CHOICE 0, log entry 4). -/
def State.reset : State where
  cmd := 0#8
  a := 0#64
  b := 0#64
  c := 0#64
  k0 := 0#32
  k1 := 0#32
  k2 := 0#32
  res := 0#64
  ill := 0#1
  romMod37 := romMod37Contents
  romDb := romDbContents

end Sys2Proof.Machine
end

