-- ==== Sys2Proof/Machine/Ops.lean ====
section
/-! DEFINITION. The operations every meaning is written over: the primitives of spec/00_scope.md rules
R9 to R12 on W-bit values, and the reads and writes of the ports. The block takes no exception and
returns from none (spec/60_exceptions.md rules R220, R226, R227): its one abnormal event is the
illegal-command report, `reportIllegal`. -/

namespace Sys2Proof.Machine

/-- `ones(n)`: the value 2^n - 1, n ones in bits n-1..0 (R9). -/
def ones (w n : Nat) : BitVec w := BitVec.ofNat w (2 ^ n - 1)

/-- `1 << i` on W-bit values (R11). -/
def bitAt (w i : Nat) : BitVec w := 1#w <<< i

/-- `rep_W(b)`: every bit equal to b (R12). -/
def rep (w : Nat) (b : BitVec 1) : BitVec w := if b = 1#1 then BitVec.allOnes w else 0#w

/-- `v[0]` of a signed scalar value, as one bit. -/
def lowBit (v : Int) : BitVec 1 := BitVec.ofInt 1 v

/-- `popcount(v)`: the number of bits of v equal to 1 (R12). -/
def popcount {w : Nat} (v : BitVec w) : Nat := (List.range w).countP fun k => v.getLsbD k

/-- The number with bits `f 0`, `f 1`, … at weights 1, 2, … (R9). -/
def natOfBits : Nat → (Nat → Bool) → Nat
  | 0, _ => 0
  | n + 1, f => (f 0).toNat + 2 * natOfBits n fun k => f (k + 1)

/-- The W-bit value whose bit k is `f k`: the meaning of `for k: r[k] = f k` in the family rules. -/
def ofBits (w : Nat) (f : Nat → Bool) : BitVec w := BitVec.ofNat w (natOfBits w f)

/-- Write both output ports together (R12, R54). -/
def State.withOutputs (s : State) (res : Data) (ill : Bit) : State :=
  { s with res := res, ill := ill }

/-- `RES <- zext_64(r); ILL <- 0`: the end of every legal command (R74, R100, R140, R160, R190). -/
def writeResult {w : Nat} (r : BitVec w) (s : State) : StepResult :=
  .next (s.withOutputs (r.setWidth 64) 0#1)

/-- `ILL <- 1; RES <- 0`: the evaluation of an illegal command word (R221). It makes no domain test
and uses no U_* value (R225). -/
def reportIllegal (s : State) : StepResult :=
  .next (s.withOutputs 0#64 1#1)

/-- The input ports of a state. -/
def State.inputs (s : State) : Inputs := ⟨s.cmd, s.a, s.b, s.c, s.k0, s.k1, s.k2⟩

/-- The output ports of a state. Reading them has no side effect (R54). -/
def State.outputs (s : State) : Outputs := ⟨s.res, s.ill⟩

/-- The host drives all seven input ports (R20); nothing else changes (R21). -/
def State.present (s : State) (x : Inputs) : State :=
  { s with cmd := x.cmd, a := x.a, b := x.b, c := x.c, k0 := x.k0, k1 := x.k1, k2 := x.k2 }

end Sys2Proof.Machine
end

