-- ==== Sys2Proof/Machine/Operands.lean ====
section
/-! DEFINITION. Operand assembly (spec/30_encoding.md rules R73, R75 and R76) and the domain tests of
the family rules. A domain test compares the whole signed scalar; nothing is reduced modulo W. -/

namespace Sys2Proof.Machine

/-- `a = A[W-1:0]` (R73). -/
def dataA (w : Nat) (s : State) : BitVec w := s.a.setWidth w

/-- `b = B[W-1:0]` (R73). -/
def dataB (w : Nat) (s : State) : BitVec w := s.b.setWidth w

/-- `c = C[W-1:0]` (R73). -/
def dataC (w : Nat) (s : State) : BitVec w := s.c.setWidth w

/-- `int(K0)`, the whole signed 32-bit value (R76). -/
def intK0 (s : State) : Int := s.k0.toInt

/-- `int(K1)` (R76). -/
def intK1 (s : State) : Int := s.k1.toInt

/-- `int(K2)` (R76). -/
def intK2 (s : State) : Int := s.k2.toInt

/-- Index domain: `0 <= i < W` (R101). -/
abbrev IndexIn (w : Nat) (i : Int) : Prop := 0 ≤ i ∧ i < w

/-- bitValue domain: 0 or 1 (R102). -/
abbrev BitValueIn (v : Int) : Prop := v = 0 ∨ v = 1

/-- SWAPFIELD domain: both fields inside the word, and disjoint or empty (R103). -/
abbrev FieldsIn (w : Nat) (i j n : Int) : Prop :=
  (0 ≤ n ∧ 0 ≤ i ∧ 0 ≤ j) ∧ (i + n ≤ w ∧ j + n ≤ w) ∧ (n = 0 ∨ i + n ≤ j ∨ j + n ≤ i)

/-- PARITYN and SIGNEXTEND domain: `1 <= n <= W` (R149, R188, R189). -/
abbrev SizeIn (w : Nat) (n : Int) : Prop := 1 ≤ n ∧ n ≤ w

/-- ROTATE domain: `-W < n < W` (R184, R185). -/
abbrev AmountIn (w : Nat) (n : Int) : Prop := -(w : Int) < n ∧ n < w

/-- The operand ports (R20). -/
inductive Port where
  | A | B | C | K0 | K1 | K2
deriving DecidableEq, Repr

/-- Every operand port, in the order of R81. -/
def allPorts : List Port := [.A, .B, .C, .K0, .K1, .K2]

/-- The ports a command reads, in the order A, B, C, K0, K1, K2: the rows of R75. -/
def reads : Instr → List Port
  | .getW32 | .getW64 => [.A, .K0]
  | .getmaskedW32 | .getmaskedW64 => [.A, .B]
  | .setW32 | .setW64 => [.A, .K0, .K1]
  | .setmaskedW32 | .setmaskedW64 => [.A, .B, .K0]
  | .toggleW32 | .toggleW64 => [.A, .K0]
  | .togglemaskedW32 | .togglemaskedW64 => [.A, .B]
  | .swapW32 | .swapW64 => [.A, .K0, .K1]
  | .swapfieldW32 | .swapfieldW64 => [.A, .K0, .K1, .K2]
  | .countW32 | .countW64 => [.A]
  | .parityW32 | .parityW64 => [.A]
  | .paritynW32 | .paritynW64 => [.A, .K0]
  | .scanW32 | .scanW64 => [.A]
  | .scanreverseW32 | .scanreverseW64 => [.A]
  | .mergeW32 | .mergeW64 => [.A, .B, .C]
  | .interleaveW32 | .interleaveW64 => [.A, .B]
  | .rotateW32 | .rotateW64 => [.A, .K0]
  | .reverseW32 | .reverseW64 => [.A]
  | .signextendW32 | .signextendW64 => [.A, .K0]

/-- The value on a port, in 64 bits: a scalar port is zero-extended. -/
def Port.read (p : Port) (x : Inputs) : BitVec 64 :=
  match p with
  | .A => x.a
  | .B => x.b
  | .C => x.c
  | .K0 => x.k0.setWidth 64
  | .K1 => x.k1.setWidth 64
  | .K2 => x.k2.setWidth 64

/-- Drive one port. A scalar port takes the low 32 bits (log entry 9). -/
def Port.drive (p : Port) (v : BitVec 64) (x : Inputs) : Inputs :=
  match p with
  | .A => { x with a := v }
  | .B => { x with b := v }
  | .C => { x with c := v }
  | .K0 => { x with k0 := v.setWidth 32 }
  | .K1 => { x with k1 := v.setWidth 32 }
  | .K2 => { x with k2 := v.setWidth 32 }

/-- The part of a port a command of width W can depend on: bits W-1..0 of a data port, all of a scalar
port (R73, R77). -/
def Port.view (w : Nat) (p : Port) (x : Inputs) : BitVec 64 :=
  match p with
  | .A => (x.a.setWidth w).setWidth 64
  | .B => (x.b.setWidth w).setWidth 64
  | .C => (x.c.setWidth w).setWidth 64
  | .K0 => x.k0.setWidth 64
  | .K1 => x.k1.setWidth 64
  | .K2 => x.k2.setWidth 64

end Sys2Proof.Machine
end

