-- ==== Sys2Proof/Machine/BitAccess.lean ====
section
/-! DEFINITION. Bit access and swap (spec/40_bit_access.md): GET, GETMASKED, SET, SETMASKED, TOGGLE,
TOGGLEMASKED, SWAP, SWAPFIELD. Each operation is computed once at any width W, from the rules'
pseudocode, and each command of the table reads its ports and writes the result. -/

namespace Sys2Proof.Machine

/-! ### The operations on W-bit values -/

/-- GET (R104, R105): bit i as the number 0 or 1. -/
def getResult {w : Nat} (a : BitVec w) (i : Int) : BitVec w :=
  if IndexIn w i then (BitVec.ofBool (a.getLsbD i.toNat)).setWidth w else Config.uGet w a i

/-- GETMASKED (R106, R107): x with every bit outside the mask cleared. -/
def getMaskedResult {w : Nat} (a b : BitVec w) : BitVec w := a &&& b

/-- x with bit i replaced by the bit v: `(a & ~(1 << i)) | (zext(v) << i)` (R108, R109). -/
def replaceBit {w : Nat} (a : BitVec w) (i : Nat) (v : BitVec 1) : BitVec w :=
  (a &&& ~~~(bitAt w i)) ||| (v.setWidth w <<< i)

/-- SET (R108, R109): bit i forced to bitValue. A bitValue outside {0, 1} opens bit i only (R102). -/
def setResult {w : Nat} (a : BitVec w) (i v : Int) : BitVec w :=
  if IndexIn w i then
    if BitValueIn v then replaceBit a i.toNat (lowBit v)
    else replaceBit a i.toNat (Config.uSetBit w a i v)
  else Config.uSet w a i v

/-- SETMASKED (R110, R111): the bits in the mask forced to bitValue. A bitValue outside {0, 1} opens the
bits in the mask only (R102). -/
def setMaskedResult {w : Nat} (a b : BitVec w) (v : Int) : BitVec w :=
  if BitValueIn v then (a &&& ~~~b) ||| (rep w (lowBit v) &&& b)
  else (a &&& ~~~b) ||| (Config.uSetM w a b v &&& b)

/-- TOGGLE (R112, R113): bit i flipped. -/
def toggleResult {w : Nat} (a : BitVec w) (i : Int) : BitVec w :=
  if IndexIn w i then a ^^^ bitAt w i.toNat else Config.uToggle w a i

/-- TOGGLEMASKED (R114, R115): every bit in the mask flipped. -/
def toggleMaskedResult {w : Nat} (a b : BitVec w) : BitVec w := a ^^^ b

/-- The exchange shared by SWAP and SWAPFIELD: `t = ((a >> i) ^ (a >> j)) & m`, then
`a ^ (t << i) ^ (t << j)` (R116 to R119). -/
def exchange {w : Nat} (a : BitVec w) (i j : Nat) (m : BitVec w) : BitVec w :=
  let t := ((a >>> i) ^^^ (a >>> j)) &&& m
  a ^^^ (t <<< i) ^^^ (t <<< j)

/-- SWAP (R116, R117): bits i and j exchanged. -/
def swapResult {w : Nat} (a : BitVec w) (i j : Int) : BitVec w :=
  if IndexIn w i ∧ IndexIn w j then exchange a i.toNat j.toNat 1#w else Config.uSwap w a i j

/-- SWAPFIELD (R118, R119): the n-bit fields at i and j exchanged. -/
def swapFieldResult {w : Nat} (a : BitVec w) (i j n : Int) : BitVec w :=
  if FieldsIn w i j n then
    if n = 0 then a else exchange a i.toNat j.toNat (ones w n.toNat)
  else Config.uSwapField w a i j n

/-! ### The commands -/

/-- GET.W32 (R104). -/
def execGetW32 (s : State) : StepResult := writeResult (getResult (dataA 32 s) (intK0 s)) s

/-- GET.W64 (R105). -/
def execGetW64 (s : State) : StepResult := writeResult (getResult (dataA 64 s) (intK0 s)) s

/-- GETMASKED.W32 (R106). -/
def execGetmaskedW32 (s : State) : StepResult :=
  writeResult (getMaskedResult (dataA 32 s) (dataB 32 s)) s

/-- GETMASKED.W64 (R107). -/
def execGetmaskedW64 (s : State) : StepResult :=
  writeResult (getMaskedResult (dataA 64 s) (dataB 64 s)) s

/-- SET.W32 (R108). -/
def execSetW32 (s : State) : StepResult :=
  writeResult (setResult (dataA 32 s) (intK0 s) (intK1 s)) s

/-- SET.W64 (R109). -/
def execSetW64 (s : State) : StepResult :=
  writeResult (setResult (dataA 64 s) (intK0 s) (intK1 s)) s

/-- SETMASKED.W32 (R110). -/
def execSetmaskedW32 (s : State) : StepResult :=
  writeResult (setMaskedResult (dataA 32 s) (dataB 32 s) (intK0 s)) s

/-- SETMASKED.W64 (R111). -/
def execSetmaskedW64 (s : State) : StepResult :=
  writeResult (setMaskedResult (dataA 64 s) (dataB 64 s) (intK0 s)) s

/-- TOGGLE.W32 (R112). -/
def execToggleW32 (s : State) : StepResult := writeResult (toggleResult (dataA 32 s) (intK0 s)) s

/-- TOGGLE.W64 (R113). -/
def execToggleW64 (s : State) : StepResult := writeResult (toggleResult (dataA 64 s) (intK0 s)) s

/-- TOGGLEMASKED.W32 (R114). -/
def execTogglemaskedW32 (s : State) : StepResult :=
  writeResult (toggleMaskedResult (dataA 32 s) (dataB 32 s)) s

/-- TOGGLEMASKED.W64 (R115). -/
def execTogglemaskedW64 (s : State) : StepResult :=
  writeResult (toggleMaskedResult (dataA 64 s) (dataB 64 s)) s

/-- SWAP.W32 (R116). -/
def execSwapW32 (s : State) : StepResult :=
  writeResult (swapResult (dataA 32 s) (intK0 s) (intK1 s)) s

/-- SWAP.W64 (R117). -/
def execSwapW64 (s : State) : StepResult :=
  writeResult (swapResult (dataA 64 s) (intK0 s) (intK1 s)) s

/-- SWAPFIELD.W32 (R118). -/
def execSwapfieldW32 (s : State) : StepResult :=
  writeResult (swapFieldResult (dataA 32 s) (intK0 s) (intK1 s) (intK2 s)) s

/-- SWAPFIELD.W64 (R119). -/
def execSwapfieldW64 (s : State) : StepResult :=
  writeResult (swapFieldResult (dataA 64 s) (intK0 s) (intK1 s) (intK2 s)) s

end Sys2Proof.Machine
end

