-- ==== Sys2Proof/Machine/BitScan.lean ====
section
/-! DEFINITION. Bit scan (spec/42_bit_scan.md): SCAN through ROM_MOD37, SCANREVERSE through ROM_DB. The
ROMs are read from the state. Sentinels at x = 0 are those of R166 (spec/90_conflicts.md C2 to C5). -/

namespace Sys2Proof.Machine

/-! ### The hashes and the 32-bit scans -/

/-- The isolate-lowest-bit value `h = a & (-a)` (R161): 0, or 2^k for the lowest set bit k. -/
def lowestBit (a : BitVec 32) : BitVec 32 := a &&& -a

/-- The MOD37 index: the unsigned remainder of h (R161). -/
def mod37Index (a : BitVec 32) : Nat := (lowestBit a).toNat % 37

/-- scan32, the r of R162: ROM_MOD37 at the MOD37 index. -/
def scan32 (rom : Vector (BitVec 6) 37) (a : BitVec 32) : BitVec 32 :=
  (rom[mod37Index a]'(Nat.mod_lt _ (by decide))).setWidth 32

/-- The spread of R164: every bit at or below the highest set bit becomes 1. -/
def spreadDown (a : BitVec 32) : BitVec 32 :=
  let v := a ||| (a >>> 1)
  let v := v ||| (v >>> 2)
  let v := v ||| (v >>> 4)
  let v := v ||| (v >>> 8)
  v ||| (v >>> 16)

/-- The De Bruijn index: the top 5 bits of the 32-bit product (R164). -/
def deBruijnIndex (v : BitVec 32) : BitVec 5 := (v * 0x07C4ACDD#32).extractLsb' 27 5

/-- sr32, the r of R164: ROM_DB at the De Bruijn index of the spread. -/
def scanReverse32 (rom : Vector (BitVec 5) 32) (a : BitVec 32) : BitVec 32 :=
  (rom[(deBruijnIndex (spreadDown a)).toNat]'(deBruijnIndex (spreadDown a)).isLt).setWidth 32

/-- The low half of a 64-bit operand. -/
def loHalf (a : BitVec 64) : BitVec 32 := a.extractLsb' 0 32

/-- The high half of a 64-bit operand. -/
def hiHalf (a : BitVec 64) : BitVec 32 := a.extractLsb' 32 32

/-- SCAN.W64 (R163): the low half first, and the high half only when the low half reports 32. -/
def scan64 (rom : Vector (BitVec 6) 37) (a : BitVec 64) : BitVec 64 :=
  if scan32 rom (loHalf a) ≠ 32#32 then (scan32 rom (loHalf a)).setWidth 64
  else (32#32 + scan32 rom (hiHalf a)).setWidth 64

/-- SCANREVERSE.W64 (R165): the high half first, tested for zero on its value. -/
def scanReverse64 (rom : Vector (BitVec 5) 32) (a : BitVec 64) : BitVec 64 :=
  if hiHalf a ≠ 0#32 then (32#32 + scanReverse32 rom (hiHalf a)).setWidth 64
  else (scanReverse32 rom (loHalf a)).setWidth 64

/-! ### The commands -/

/-- SCAN.W32 (R162). -/
def execScanW32 (s : State) : StepResult := writeResult (scan32 s.romMod37 (dataA 32 s)) s

/-- SCAN.W64 (R163). -/
def execScanW64 (s : State) : StepResult := writeResult (scan64 s.romMod37 (dataA 64 s)) s

/-- SCANREVERSE.W32 (R164). -/
def execScanreverseW32 (s : State) : StepResult :=
  writeResult (scanReverse32 s.romDb (dataA 32 s)) s

/-- SCANREVERSE.W64 (R165). -/
def execScanreverseW64 (s : State) : StepResult :=
  writeResult (scanReverse64 s.romDb (dataA 64 s)) s

end Sys2Proof.Machine
end

