-- ==== Sys2Proof/Machine/CountParity.lean ====
section
/-! DEFINITION. Population count and parity (spec/41_count_parity.md): COUNT, PARITY, PARITYN. -/

namespace Sys2Proof.Machine

/-! ### The operations on W-bit values -/

/-- COUNT (R141 to R143): the exact population count. -/
def countResult {w : Nat} (a : BitVec w) : BitVec w := BitVec.ofNat w (popcount a)

/-- PARITY (R144, R145, R148): the population count modulo 2. -/
def parityResult {w : Nat} (a : BitVec w) : BitVec w := BitVec.ofNat w (popcount a % 2)

/-- The loop of R146 and R147: `while s != 0: r = r ^ (s & m); s = s >> n`. The shift by n = W gives 0,
as the rules' `(n == W) ? 0` does. At most ceil(W/n) rounds run, so the bound on rounds is never
met by a call with `rounds = W` and n >= 1 (log entry 15). -/
def foldGroups {w : Nat} (m : BitVec w) (n : Nat) : Nat → BitVec w → BitVec w → BitVec w
  | 0, r, _ => r
  | rounds + 1, r, s =>
    if s = 0#w then r else foldGroups m n rounds (r ^^^ (s &&& m)) (s >>> n)

/-- PARITYN (R146, R147, R149): the exclusive-or of all n-bit groups. -/
def parityNResult {w : Nat} (a : BitVec w) (n : Int) : BitVec w :=
  if SizeIn w n then foldGroups (ones w n.toNat) n.toNat w 0#w a else Config.uParityN w a n

/-! ### The commands -/

/-- COUNT.W32 (R142). -/
def execCountW32 (s : State) : StepResult := writeResult (countResult (dataA 32 s)) s

/-- COUNT.W64 (R143). -/
def execCountW64 (s : State) : StepResult := writeResult (countResult (dataA 64 s)) s

/-- PARITY.W32 (R144). -/
def execParityW32 (s : State) : StepResult := writeResult (parityResult (dataA 32 s)) s

/-- PARITY.W64 (R145). -/
def execParityW64 (s : State) : StepResult := writeResult (parityResult (dataA 64 s)) s

/-- PARITYN.W32 (R146). -/
def execParitynW32 (s : State) : StepResult :=
  writeResult (parityNResult (dataA 32 s) (intK0 s)) s

/-- PARITYN.W64 (R147). -/
def execParitynW64 (s : State) : StepResult :=
  writeResult (parityNResult (dataA 64 s) (intK0 s)) s

end Sys2Proof.Machine
end

