-- ==== Sys2Proof/Machine/MergePermute.lean ====
section
/-! DEFINITION. Merge, interleave, rotate, reverse and sign-extend (spec/43_merge_permute.md). -/

namespace Sys2Proof.Machine

/-! ### The operations on W-bit values -/

/-- MERGE (R180, R181): a bit set in the mask c comes from y, a bit clear in it from x. -/
def mergeResult {w : Nat} (a b c : BitVec w) : BitVec w := a ^^^ ((a ^^^ b) &&& c)

/-- INTERLEAVE (R182, R183): `r[2k] = b[k]` and `r[2k+1] = a[k]`. Only the low W/2 bits of a and b
are reached. -/
def interleaveResult {w : Nat} (a b : BitVec w) : BitVec w :=
  ofBits w fun k => if k % 2 = 0 then b.getLsbD (k / 2) else a.getLsbD (k / 2)

/-- A left rotation by s, 0 <= s < W (R184, R185). -/
def rotateBy {w : Nat} (a : BitVec w) (s : Nat) : BitVec w :=
  if s = 0 then a else (a <<< s) ||| (a >>> (w - s))

/-- ROTATE (R184, R185): left for a positive n, right for a negative n. -/
def rotateResult {w : Nat} (a : BitVec w) (n : Int) : BitVec w :=
  if AmountIn w n then rotateBy a (if 0 ≤ n then n else n + w).toNat else Config.uRotate w a n

/-- REVERSE (R186, R187): bit k of the result is bit W-1-k of x. -/
def reverseResult {w : Nat} (a : BitVec w) : BitVec w := ofBits w fun k => a.getLsbD (w - 1 - k)

/-- SIGNEXTEND (R188, R189): a left shift by W-n, then an arithmetic right shift by as much. -/
def signExtendResult {w : Nat} (a : BitVec w) (n : Int) : BitVec w :=
  if SizeIn w n then (a <<< (w - n.toNat)).sshiftRight (w - n.toNat) else Config.uSignExtend w a n

/-! ### The commands -/

/-- MERGE.W32 (R180). -/
def execMergeW32 (s : State) : StepResult :=
  writeResult (mergeResult (dataA 32 s) (dataB 32 s) (dataC 32 s)) s

/-- MERGE.W64 (R181). -/
def execMergeW64 (s : State) : StepResult :=
  writeResult (mergeResult (dataA 64 s) (dataB 64 s) (dataC 64 s)) s

/-- INTERLEAVE.W32, 16 bits into 32 (R182). -/
def execInterleaveW32 (s : State) : StepResult :=
  writeResult (interleaveResult (dataA 32 s) (dataB 32 s)) s

/-- INTERLEAVE.W64, 32 bits into 64 (R183). -/
def execInterleaveW64 (s : State) : StepResult :=
  writeResult (interleaveResult (dataA 64 s) (dataB 64 s)) s

/-- ROTATE.W32 (R184). -/
def execRotateW32 (s : State) : StepResult := writeResult (rotateResult (dataA 32 s) (intK0 s)) s

/-- ROTATE.W64 (R185). -/
def execRotateW64 (s : State) : StepResult := writeResult (rotateResult (dataA 64 s) (intK0 s)) s

/-- REVERSE.W32 (R186). -/
def execReverseW32 (s : State) : StepResult := writeResult (reverseResult (dataA 32 s)) s

/-- REVERSE.W64 (R187). -/
def execReverseW64 (s : State) : StepResult := writeResult (reverseResult (dataA 64 s)) s

/-- SIGNEXTEND.W32 (R188). -/
def execSignextendW32 (s : State) : StepResult :=
  writeResult (signExtendResult (dataA 32 s) (intK0 s)) s

/-- SIGNEXTEND.W64 (R189). -/
def execSignextendW64 (s : State) : StepResult :=
  writeResult (signExtendResult (dataA 64 s) (intK0 s)) s

end Sys2Proof.Machine
end

