-- ==== Sys2Proof/Machine/Dispatch.lean ====
section
/-! DEFINITION. The dispatch from a command to its meaning: one arm per row of spec/opcode_table.json. -/

namespace Sys2Proof.Machine

def exec (i : Instr) (s : State) : Host.Outcome State Fault Refusal :=
  match i with
  | .getW32 => Sys2Proof.Machine.execGetW32 s
  | .getmaskedW32 => Sys2Proof.Machine.execGetmaskedW32 s
  | .setW32 => Sys2Proof.Machine.execSetW32 s
  | .setmaskedW32 => Sys2Proof.Machine.execSetmaskedW32 s
  | .toggleW32 => Sys2Proof.Machine.execToggleW32 s
  | .togglemaskedW32 => Sys2Proof.Machine.execTogglemaskedW32 s
  | .swapW32 => Sys2Proof.Machine.execSwapW32 s
  | .swapfieldW32 => Sys2Proof.Machine.execSwapfieldW32 s
  | .countW32 => Sys2Proof.Machine.execCountW32 s
  | .parityW32 => Sys2Proof.Machine.execParityW32 s
  | .paritynW32 => Sys2Proof.Machine.execParitynW32 s
  | .scanW32 => Sys2Proof.Machine.execScanW32 s
  | .scanreverseW32 => Sys2Proof.Machine.execScanreverseW32 s
  | .mergeW32 => Sys2Proof.Machine.execMergeW32 s
  | .interleaveW32 => Sys2Proof.Machine.execInterleaveW32 s
  | .rotateW32 => Sys2Proof.Machine.execRotateW32 s
  | .reverseW32 => Sys2Proof.Machine.execReverseW32 s
  | .signextendW32 => Sys2Proof.Machine.execSignextendW32 s
  | .getW64 => Sys2Proof.Machine.execGetW64 s
  | .getmaskedW64 => Sys2Proof.Machine.execGetmaskedW64 s
  | .setW64 => Sys2Proof.Machine.execSetW64 s
  | .setmaskedW64 => Sys2Proof.Machine.execSetmaskedW64 s
  | .toggleW64 => Sys2Proof.Machine.execToggleW64 s
  | .togglemaskedW64 => Sys2Proof.Machine.execTogglemaskedW64 s
  | .swapW64 => Sys2Proof.Machine.execSwapW64 s
  | .swapfieldW64 => Sys2Proof.Machine.execSwapfieldW64 s
  | .countW64 => Sys2Proof.Machine.execCountW64 s
  | .parityW64 => Sys2Proof.Machine.execParityW64 s
  | .paritynW64 => Sys2Proof.Machine.execParitynW64 s
  | .scanW64 => Sys2Proof.Machine.execScanW64 s
  | .scanreverseW64 => Sys2Proof.Machine.execScanreverseW64 s
  | .mergeW64 => Sys2Proof.Machine.execMergeW64 s
  | .interleaveW64 => Sys2Proof.Machine.execInterleaveW64 s
  | .rotateW64 => Sys2Proof.Machine.execRotateW64 s
  | .reverseW64 => Sys2Proof.Machine.execReverseW64 s
  | .signextendW64 => Sys2Proof.Machine.execSignextendW64 s

end Sys2Proof.Machine
end

