-- ==== Sys2Proof/Machine/Step.lean ====
section
/-! DEFINITION. One evaluation of the block (spec/00_scope.md rule R13): the command on port CMD is
decoded and run on the operand ports, and both outputs are written. Nothing is fetched and nothing
advances (spec/10_state.md rule R24); the next command is whatever the host presents next. -/

namespace Sys2Proof.Machine

/-- One evaluation, sampled by the host after T_SETTLE with its inputs held (R244). Log entry 2. -/
def step (s : State) : Host.Outcome State Fault Refusal :=
  match decode s.cmd with
  | .command i => exec i s
  | .illegal _ => reportIllegal s

/-- The word placed on port CMD, which is where the next step finds its command. The operand ports are
left as they are. Log entries 5 and 12. -/
def State.withFetchWord (s : State) (nbits w : Nat) : State :=
  { s with cmd := BitVec.ofNat 8 (w % 2 ^ nbits) }

end Sys2Proof.Machine
end

