-- ==== Sys2Proof/Machine/Assembler.lean ====
section
/-! DEFINITION. The assembler notation and the pseudo-commands (spec/30_encoding.md rules R81 and R82). A
line is a list of characters. What R81 leaves open in the text is log entry 13. -/

namespace Sys2Proof.Machine

/-! ### Names -/

/-- The mnemonic with its width suffix, as spec/opcode_table.json spells it (R71, R72). -/
def mnemonic : Instr → String
  | .getW32 => "GET.W32"
  | .getmaskedW32 => "GETMASKED.W32"
  | .setW32 => "SET.W32"
  | .setmaskedW32 => "SETMASKED.W32"
  | .toggleW32 => "TOGGLE.W32"
  | .togglemaskedW32 => "TOGGLEMASKED.W32"
  | .swapW32 => "SWAP.W32"
  | .swapfieldW32 => "SWAPFIELD.W32"
  | .countW32 => "COUNT.W32"
  | .parityW32 => "PARITY.W32"
  | .paritynW32 => "PARITYN.W32"
  | .scanW32 => "SCAN.W32"
  | .scanreverseW32 => "SCANREVERSE.W32"
  | .mergeW32 => "MERGE.W32"
  | .interleaveW32 => "INTERLEAVE.W32"
  | .rotateW32 => "ROTATE.W32"
  | .reverseW32 => "REVERSE.W32"
  | .signextendW32 => "SIGNEXTEND.W32"
  | .getW64 => "GET.W64"
  | .getmaskedW64 => "GETMASKED.W64"
  | .setW64 => "SET.W64"
  | .setmaskedW64 => "SETMASKED.W64"
  | .toggleW64 => "TOGGLE.W64"
  | .togglemaskedW64 => "TOGGLEMASKED.W64"
  | .swapW64 => "SWAP.W64"
  | .swapfieldW64 => "SWAPFIELD.W64"
  | .countW64 => "COUNT.W64"
  | .parityW64 => "PARITY.W64"
  | .paritynW64 => "PARITYN.W64"
  | .scanW64 => "SCAN.W64"
  | .scanreverseW64 => "SCANREVERSE.W64"
  | .mergeW64 => "MERGE.W64"
  | .interleaveW64 => "INTERLEAVE.W64"
  | .rotateW64 => "ROTATE.W64"
  | .reverseW64 => "REVERSE.W64"
  | .signextendW64 => "SIGNEXTEND.W64"

/-- Every command, in the order of R80. -/
def allInstrs : List Instr :=
  [.getW32, .getmaskedW32, .setW32, .setmaskedW32, .toggleW32, .togglemaskedW32,
    .swapW32, .swapfieldW32, .countW32, .parityW32, .paritynW32, .scanW32,
    .scanreverseW32, .mergeW32, .interleaveW32, .rotateW32, .reverseW32, .signextendW32]
  ++ [.getW64, .getmaskedW64, .setW64, .setmaskedW64, .toggleW64, .togglemaskedW64,
    .swapW64, .swapfieldW64, .countW64, .parityW64, .paritynW64, .scanW64,
    .scanreverseW64, .mergeW64, .interleaveW64, .rotateW64, .reverseW64, .signextendW64]

/-- The pseudo-commands of R82. -/
inductive Pseudo where
  | bset | bclr | rotr | ctz
deriving DecidableEq, Repr

/-- The spelling of a pseudo-command at width 64 (`wide`) or 32 (R82). -/
def Pseudo.mnemonic (p : Pseudo) (wide : Bool) : String :=
  (match p with | .bset => "BSET" | .bclr => "BCLR" | .rotr => "ROTR" | .ctz => "CTZ")
    ++ (if wide then ".W64" else ".W32")

/-- Every pseudo-command at both widths. -/
def allPseudos : List (Pseudo × Bool) :=
  [(.bset, false), (.bclr, false), (.rotr, false), (.ctz, false),
    (.bset, true), (.bclr, true), (.rotr, true), (.ctz, true)]

/-- The name of a port (R20). -/
def Port.name : Port → String
  | .A => "A" | .B => "B" | .C => "C" | .K0 => "K0" | .K1 => "K1" | .K2 => "K2"

/-- A port's width in bits (R20). -/
def Port.width : Port → Nat
  | .A | .B | .C => 64
  | .K0 | .K1 | .K2 => 32

/-! ### Operands -/

/-- A port value: a numeral or, in a host script, an earlier host name (R81, R90). -/
inductive Operand where
  | num (v : Int)
  | name (n : String)
deriving DecidableEq, Repr

/-- A numeral fits its port: its pattern has at most the port's width, and only a K port takes a
negative one, as a 32-bit two's-complement pattern (R81). Log entry 13. -/
def numeralFits (p : Port) (v : Int) : Bool :=
  match p with
  | .A | .B | .C => decide (0 ≤ v ∧ v < 2 ^ 64)
  | .K0 | .K1 | .K2 => decide (-2 ^ 31 ≤ v ∧ v < 2 ^ 32)

/-- A name fits every port (log entry 9). -/
def operandFits : Port × Operand → Bool
  | (p, .num v) => numeralFits p v
  | (_, .name _) => true

/-- The command a pseudo-command expands to, and its operands (R82). The condition of ROTR, s in (-n, n),
is tested on the numeral as written and not on the signed value of its pattern on K0, so
`K0=0xFFFFFFFF` is no other spelling of `K0=-1` here, and s is no host name (DESIGN CHOICE, log
entry 17). -/
def Pseudo.expand (p : Pseudo) (wide : Bool) (ports : List (Port × Operand)) :
    Option (Instr × List (Port × Operand)) :=
  match p, ports with
  | .bset, [(.A, x), (.K0, i)] =>
    some (if wide then .setW64 else .setW32, [(.A, x), (.K0, i), (.K1, .num 1)])
  | .bclr, [(.A, x), (.K0, i)] =>
    some (if wide then .setW64 else .setW32, [(.A, x), (.K0, i), (.K1, .num 0)])
  | .rotr, [(.A, x), (.K0, .num s)] =>
    if AmountIn (if wide then 64 else 32) s then
      some (if wide then .rotateW64 else .rotateW32, [(.A, x), (.K0, .num (-s))])
    else none
  | .ctz, [(.A, x)] => some (if wide then .scanW64 else .scanW32, [(.A, x)])
  | _, _ => none

/-! ### Reading text -/

/-- White space inside a line. -/
def isBlank (c : Char) : Bool := c = ' ' || c = '\t' || c = '\r'

/-- Leading and trailing white space removed. -/
def trim (cs : List Char) : List Char :=
  ((cs.dropWhile isBlank).reverse.dropWhile isBlank).reverse

/-- Split at every occurrence of a separator. -/
def splitAll (sep : Char) : List Char → List (List Char)
  | [] => [[]]
  | c :: cs =>
    if c = sep then [] :: splitAll sep cs
    else
      match splitAll sep cs with
      | [] => [[c]]
      | w :: ws => (c :: w) :: ws

/-- Split at the first occurrence of a separator; none if it does not occur. -/
def splitFirst (sep : Char) : List Char → Option (List Char × List Char)
  | [] => none
  | c :: cs =>
    if c = sep then some ([], cs) else (splitFirst sep cs).map fun (l, r) => (c :: l, r)

/-- The value of one digit: 0 to 9, then a to f in either case. -/
def digitValue (c : Char) : Option Nat :=
  if '0' ≤ c ∧ c ≤ '9' then some (c.toNat - '0'.toNat)
  else if 'a' ≤ c ∧ c ≤ 'f' then some (c.toNat - 'a'.toNat + 10)
  else if 'A' ≤ c ∧ c ≤ 'F' then some (c.toNat - 'A'.toNat + 10)
  else none

/-- Digits in a base, most significant first, added to what stands before them. -/
def digitsFrom (base : Nat) : Nat → List Char → Option Nat
  | acc, [] => some acc
  | acc, c :: cs =>
    match digitValue c with
    | some d => if d < base then digitsFrom base (acc * base + d) cs else none
    | none => none

/-- At least one digit. -/
def readNat (base : Nat) (cs : List Char) : Option Nat :=
  if cs = [] then none else digitsFrom base 0 cs

/-- A numeral: decimal, `0x` hexadecimal, `0b` binary, or a negative decimal (R81). -/
def readNumeral : List Char → Option Int
  | '0' :: 'x' :: cs => (readNat 16 cs).map Int.ofNat
  | '0' :: 'b' :: cs => (readNat 2 cs).map Int.ofNat
  | '-' :: cs => (readNat 10 cs).map fun v => -Int.ofNat v
  | cs => (readNat 10 cs).map Int.ofNat

/-- A host name begins with a letter and goes on with letters, digits and underscores. -/
def isName : List Char → Bool
  | [] => false
  | c :: cs => c.isAlpha && cs.all fun d => d.isAlphanum || d = '_'

/-- A numeral or a host name. -/
def readOperand (cs : List Char) : Option Operand :=
  match readNumeral cs with
  | some v => some (.num v)
  | none => if isName cs then some (.name (String.ofList cs)) else none

/-- One `PORT=value` pair (R81). -/
def readPort (cs : List Char) : Option (Port × Operand) :=
  match splitFirst '=' cs with
  | none => none
  | some (l, r) =>
    match allPorts.find? fun p => p.name.toList == trim l, readOperand (trim r) with
    | some p, some v => if operandFits (p, v) then some (p, v) else none
    | _, _ => none

/-- The pairs of a line, separated by commas. -/
def readPorts (cs : List Char) : Option (List (Port × Operand)) :=
  if trim cs = [] then some [] else (splitAll ',' cs).mapM readPort

/-- A command or a pseudo-command with its pairs. The pairs must be exactly the ports the command reads,
in the order of R81; mnemonics are case-insensitive. -/
def readCommand (line : List Char) : Option (Instr × List (Port × Operand)) :=
  let text := trim line
  let head := (text.takeWhile fun c => !isBlank c).map Char.toUpper
  match readPorts (text.dropWhile fun c => !isBlank c) with
  | none => none
  | some ports =>
    match allInstrs.find? fun i => (mnemonic i).toList == head with
    | some i => if ports.map Prod.fst = reads i then some (i, ports) else none
    | none =>
      match allPseudos.find? fun q => (q.1.mnemonic q.2).toList == head with
      | some q => q.1.expand q.2 ports
      | none => none

/-! ### The assembled form -/

/-- The 64-bit pattern of a numeral, its value modulo 2^64; a K port takes its low 32 bits. A numeral
written on a port fits it (`numeralFits`), so nothing is lost there; for any other, log entry 18. -/
def numeralBits (v : Int) : BitVec 64 := BitVec.ofInt 64 v

/-- Drive the listed ports and leave the others (log entry 14). -/
def drivePorts : List (Port × BitVec 64) → Inputs → Inputs
  | [], x => x
  | (p, v) :: rest, x => drivePorts rest (p.drive v x)

/-- The values of pairs that are all numerals. -/
def numerals : List (Port × Operand) → Option (List (Port × BitVec 64))
  | [] => some []
  | (p, .num v) :: rest => (numerals rest).map fun l => (p, numeralBits v) :: l
  | (_, .name _) :: _ => none

/-- Assemble one line onto the ports: the CMD byte and the port values (R81). A host name has no value
outside a script. -/
def assemble (line : List Char) (x : Inputs) : Option Inputs :=
  match readCommand line with
  | none => none
  | some (i, ports) =>
    (numerals ports).map fun vs => { drivePorts vs x with cmd := encode i }

/-! ### Listing -/

/-- One hexadecimal digit. -/
def hexDigit (d : Nat) : Char :=
  if d < 10 then Char.ofNat ('0'.toNat + d) else Char.ofNat ('A'.toNat + (d - 10))

/-- The low `n` hexadecimal digits of a value, most significant first. -/
def hexDigits : Nat → Nat → List Char
  | 0, _ => []
  | n + 1, v => hexDigits n (v / 16) ++ [hexDigit (v % 16)]

/-- One `PORT=value` pair in hexadecimal. -/
def listPort (p : Port) (x : Inputs) : List Char :=
  p.name.toList ++ ['=', '0', 'x'] ++ hexDigits (p.width / 4) (p.read x).toNat

/-- Pairs separated by commas. -/
def listPorts (x : Inputs) : List Port → List Char
  | [] => []
  | [p] => listPort p x
  | p :: q :: rest => listPort p x ++ [',', ' '] ++ listPorts x (q :: rest)

/-- The line of R81 for a command on given ports. -/
def listing (i : Instr) (x : Inputs) : List Char :=
  (mnemonic i).toList ++ [' '] ++ listPorts x (reads i)

end Sys2Proof.Machine
end

