-- ==== Sys2Proof/Machine/HostPorts.lean ====
section
/-! DEFINITION. The host's side of the ports (spec/20_memory.md rules R54, R56, R58,
spec/70_reset_and_hazards.md rules R241, R244 to R246): presenting inputs, evaluating, and observing the
outputs at a given time, with input changes during an evaluation. -/

namespace Sys2Proof.Machine

/-- Present inputs, hold them, and sample after T_SETTLE (R244). -/
def evaluate (x : Inputs) (s : State) : StepResult := step (s.present x)

/-- A sequence of evaluations on one instance, one set of inputs at a time (R58). -/
def evaluateAll : List Inputs → State → StepResult
  | [], s => .next s
  | x :: xs, s =>
    match evaluate x s with
    | .next t => evaluateAll xs t
    | .fault f => .fault f
    | .refused r => .refused r

/-- The outputs of an answer. -/
def outputsOf : StepResult → Host.Outcome Outputs Fault Refusal
  | .next t => .next t.outputs
  | .fault f => .fault f
  | .refused r => .refused r

/-- `eval(CMD, A, B, C, K0, K1, K2) -> (RES, ILL)` (R13), on the block as built. -/
def eval (x : Inputs) : Host.Outcome Outputs Fault Refusal := outputsOf (evaluate x State.reset)

/-- The outputs for command `i` on the operand ports of `x`, whatever stands on its CMD port. -/
def runOn (i : Instr) (x : Inputs) : Host.Outcome Outputs Fault Refusal :=
  eval { x with cmd := encode i }

/-- What the host sees on RES and ILL when every input that must hold still has been stable, with power
good, for `elapsed` time units: the evaluation of the current inputs from T_SETTLE on, and any
value before (R241, R244, R245). `observation` numbers the observations, so that each early one has a
free value of its own. Log entry 7. -/
def observe (elapsed observation : Nat) (s : State) : Host.Outcome Outputs Fault Refusal :=
  if Config.tSettle ≤ elapsed then outputsOf (step s)
  else .next ⟨Config.unsettledRes observation, Config.unsettledIll observation⟩

/-! ### Changes during an evaluation -/

/-- The operand ports that must hold still while a command word is evaluated: all of them (R244), but for
the ports that a command does not read (R245). An illegal word is no command, so R245 excepts none. -/
def heldPorts (cmd : Command) : List Port :=
  match decode cmd with
  | .command i => reads i
  | .illegal _ => allPorts

/-- Replacing inputs `x` by `y` changes neither CMD nor a port that must hold still for it. -/
def undisturbed (x y : Inputs) : Bool :=
  x.cmd == y.cmd && (heldPorts x.cmd).all fun p => p.read x == p.read y

/-- The block and the host's clock. -/
structure TimedBlock where
  block : State
  /-- The time units, with power good, since the last change of an input that must hold still. -/
  stable : Nat
deriving DecidableEq, Repr

/-- The moment power becomes good (R241, R242). -/
def TimedBlock.powerGood : TimedBlock := ⟨State.reset, 0⟩

/-- The host changes the inputs, at any time. A change of CMD, of a port the command reads, or
of any port under an illegal word starts the wait for T_SETTLE again (R244); a change of the ports a
command does not read leaves RES and ILL alone, even during an evaluation (R245). -/
def TimedBlock.change (x : Inputs) (t : TimedBlock) : TimedBlock :=
  ⟨t.block.present x, if undisturbed t.block.inputs x then t.stable else 0⟩

/-- `n` time units pass with the inputs held. -/
def TimedBlock.wait (n : Nat) (t : TimedBlock) : TimedBlock := { t with stable := t.stable + n }

/-- What the host sees on RES and ILL now. -/
def TimedBlock.observe (observation : Nat) (t : TimedBlock) : Host.Outcome Outputs Fault Refusal :=
  Machine.observe t.stable observation t.block

/-! ### Several instances and several hosts -/

/-- An evaluation on instance `k` of several (R58). The ROMs they may share are never written, so each
instance holds a copy. With no instance `k`, nothing is evaluated. -/
def evaluateAt (k : Nat) (x : Inputs) (blocks : List State) :
    Host.Outcome (List State) Fault Refusal :=
  match blocks[k]? with
  | none => .next blocks
  | some s =>
    match evaluate x s with
    | .next t => .next (blocks.set k t)
    | .fault f => .fault f
    | .refused r => .refused r

/-- The requests that hosts make of this instance's ports at one time: none leaves the ports as they
are, one is presented, and more are refused, since arbitration is outside the block (R58,
spec/93_implementation_defined.md section 3). Log entry 8. -/
def drive : List Inputs → State → StepResult
  | [], s => .next s
  | [x], s => .next (s.present x)
  | _ :: _ :: _, _ => .refused .concurrentDriving

end Sys2Proof.Machine
end

