-- ==== Sys2Proof/Machine/Realisation.lean ====
section
/-! DEFINITION. The realisations the spec describes beside its normative results
(spec/41_count_parity.md rules R141 and R148, spec/43_merge_permute.md rules R191 to R193). No meaning
uses them: they are here so that their agreement with the meanings can be stated. -/

namespace Sys2Proof.Machine

/-- The SWAR count at W = 32 (R141). -/
def countSwar32 (a : BitVec 32) : BitVec 32 :=
  let s := a - ((a >>> 1) &&& 0x55555555#32)
  let s := (s &&& 0x33333333#32) + ((s >>> 2) &&& 0x33333333#32)
  let s := (s + (s >>> 4)) &&& 0x0F0F0F0F#32
  (s * 0x01010101#32) >>> 24

/-- The SWAR count at W = 64 (R141). -/
def countSwar64 (a : BitVec 64) : BitVec 64 :=
  let s := a - ((a >>> 1) &&& 0x5555555555555555#64)
  let s := (s &&& 0x3333333333333333#64) + ((s >>> 2) &&& 0x3333333333333333#64)
  let s := (s + (s >>> 4)) &&& 0x0F0F0F0F0F0F0F0F#64
  (s * 0x0101010101010101#64) >>> 56

/-- The parity fold at W = 32, ending in the 16-entry constant 0x6996 (R148). -/
def parityFold32 (f : BitVec 32) : BitVec 32 :=
  let f := f ^^^ (f >>> 16)
  let f := f ^^^ (f >>> 8)
  let f := f ^^^ (f >>> 4)
  (0x6996#32 >>> (f.extractLsb' 0 4).toNat) &&& 1#32

/-- The parity fold at W = 64: the halves are folded together first (R148). -/
def parityFold64 (a : BitVec 64) : BitVec 32 :=
  parityFold32 (a.extractLsb' 32 32 ^^^ a.extractLsb' 0 32)

/-- One spreading step: `(v | (v << d)) & m` (R191). -/
def spreadStep {w : Nat} (d : Nat) (m v : BitVec w) : BitVec w := (v ||| (v <<< d)) &&& m

/-- spread16 (R191). -/
def spread16 (v : BitVec 32) : BitVec 32 :=
  let v := v &&& 0xFFFF#32
  let v := spreadStep 8 0x00FF00FF#32 v
  let v := spreadStep 4 0x0F0F0F0F#32 v
  let v := spreadStep 2 0x33333333#32 v
  spreadStep 1 0x55555555#32 v

/-- spread32 (R191). -/
def spread32 (v : BitVec 64) : BitVec 64 :=
  let v := v &&& 0xFFFFFFFF#64
  let v := spreadStep 16 0x0000FFFF0000FFFF#64 v
  let v := spreadStep 8 0x00FF00FF00FF00FF#64 v
  let v := spreadStep 4 0x0F0F0F0F0F0F0F0F#64 v
  let v := spreadStep 2 0x3333333333333333#64 v
  spreadStep 1 0x5555555555555555#64 v

/-- One swap stage: `((v >> d) & m) | ((v & m) << d)` (R192). -/
def swapStage {w : Nat} (d : Nat) (m v : BitVec w) : BitVec w :=
  ((v >>> d) &&& m) ||| ((v &&& m) <<< d)

/-- The five swap stages of a 32-bit reversal (R192). -/
def reverseStages32 (v : BitVec 32) : BitVec 32 :=
  let v := swapStage 1 0x55555555#32 v
  let v := swapStage 2 0x33333333#32 v
  let v := swapStage 4 0x0F0F0F0F#32 v
  let v := swapStage 8 0x00FF00FF#32 v
  swapStage 16 0x0000FFFF#32 v

/-- The six swap stages of a 64-bit reversal (R192). -/
def reverseStages64 (v : BitVec 64) : BitVec 64 :=
  let v := swapStage 1 0x5555555555555555#64 v
  let v := swapStage 2 0x3333333333333333#64 v
  let v := swapStage 4 0x0F0F0F0F0F0F0F0F#64 v
  let v := swapStage 8 0x00FF00FF00FF00FF#64 v
  let v := swapStage 16 0x0000FFFF0000FFFF#64 v
  swapStage 32 0x00000000FFFFFFFF#64 v

/-- The barrel shifter: `(a << (n mod W)) | (a >> ((W - n) mod W))` (R193). -/
def rotateBarrel {w : Nat} (a : BitVec w) (n : Int) : BitVec w :=
  (a <<< (n % w).toNat) ||| (a >>> ((w - n) % w).toNat)

end Sys2Proof.Machine
end

