-- ==== Sys2Proof/Machine/Script.lean ====
section
/-! DEFINITION. Host programs (spec/30_encoding.md rule R90): a script the host executes, its state, one
statement at a time, and its text. All of this is the host's: the block only evaluates the commands
presented to it. -/

namespace Sys2Proof.Machine

/-! ### Scripts -/

/-- The comparisons of R90. -/
inductive Comparison where
  | eq | ne | lt | le | gt | ge
deriving DecidableEq, Repr

/-- A condition compares host names or numerals (R90). -/
structure Condition where
  comparison : Comparison
  left : Operand
  right : Operand
deriving DecidableEq, Repr

/-- A sequence of statements (R90); `rest` is what follows a statement. -/
inductive Script where
  /-- The end of a sequence. -/
  | done
  /-- `t = COMMAND ports`. -/
  | command (target : String) (i : Instr) (ports : List (Port × Operand)) (rest : Script)
  /-- `t = numeral` or `t = name`, as the programs of spec/95_test_vectors.md write it. Log entry 16. -/
  | bind (target : String) (value : Operand) (rest : Script)
  /-- `if c then … else … end`. -/
  | ite (c : Condition) (yes no : Script) (rest : Script)
  /-- `while c do … end`. -/
  | loop (c : Condition) (body : Script) (rest : Script)
  /-- `out name`. -/
  | out (name : String) (rest : Script)
  /-- `stop`. -/
  | stop
deriving DecidableEq, Repr

/-- The host and the block it drives. The end state of a program is the names and the output list
(R90); names are 64-bit values and start undefined. -/
structure ScriptState where
  /-- The sequences still to run, the innermost first. -/
  todo : List Script
  /-- Every bound host name, with its value. -/
  names : List (String × BitVec 64)
  /-- The output list, oldest first. -/
  output : List (BitVec 64)
  block : State
deriving DecidableEq, Repr

/-- What one step of the host does. -/
inductive ScriptOutcome where
  | next (h : ScriptState)
  /-- The program has ended, by `stop` or by falling off its last statement (R90). -/
  | ended (h : ScriptState)
  /-- A name was read before it was bound: the script has no meaning there. Log entry 11. -/
  | unbound (name : String)
  /-- The block did not answer; no command leads here. -/
  | refused (r : Refusal)
deriving DecidableEq, Repr

/-- The value bound to a host name. -/
def lookupName (n : String) : List (String × BitVec 64) → Option (BitVec 64)
  | [] => none
  | (m, v) :: rest => if m = n then some v else lookupName n rest

/-- Bind a host name, over any earlier value. -/
def bindName (n : String) (v : BitVec 64) : List (String × BitVec 64) → List (String × BitVec 64)
  | [] => [(n, v)]
  | (m, u) :: rest => if m = n then (n, v) :: rest else (m, u) :: bindName n v rest

/-- The value of an operand, or the name that is not bound. R90 gives a numeral in a condition or a
binding no range; it stands for its value modulo 2^64, negative or longer than 64 bits (DESIGN CHOICE,
log entry 18). -/
def operandValue (names : List (String × BitVec 64)) : Operand → Except String (BitVec 64)
  | .num v => .ok (numeralBits v)
  | .name n =>
    match lookupName n names with
    | some v => .ok v
    | none => .error n

/-- The values of all pairs, or the first name that is not bound. -/
def portValues (names : List (String × BitVec 64)) :
    List (Port × Operand) → Except String (List (Port × BitVec 64))
  | [] => .ok []
  | (p, o) :: rest =>
    match operandValue names o with
    | .error n => .error n
    | .ok v =>
      match portValues names rest with
      | .error n => .error n
      | .ok vs => .ok ((p, v) :: vs)

/-- Whether a comparison holds of two host values (R90): a question about the order of the unsigned
numbers they stand for (R10). Log entry 10. -/
def Comparison.test (c : Comparison) (left right : BitVec 64) : Bool :=
  let order := compare left.toNat right.toNat
  match c with
  | .eq => order.isEq
  | .ne => order.isNe
  | .lt => order.isLT
  | .le => order.isLE
  | .gt => order.isGT
  | .ge => order.isGE

/-- The truth of a condition, or the name that is not bound. -/
def Condition.test (names : List (String × BitVec 64)) (c : Condition) : Except String Bool :=
  match operandValue names c.left with
  | .error n => .error n
  | .ok x =>
    match operandValue names c.right with
    | .error n => .error n
    | .ok y => .ok (c.comparison.test x y)

/-- Present the command with its port values and bind the RES it answers (R90). Ports the command does
not name keep what they were driven to (R81, R77; log entry 14). -/
def runCommand (h : ScriptState) (target : String) (i : Instr) (vs : List (Port × BitVec 64))
    (todo : List Script) : ScriptOutcome :=
  match evaluate { drivePorts vs h.block.inputs with cmd := encode i } h.block with
  | .next t => .next { h with todo := todo, names := bindName target t.res h.names, block := t }
  | .fault f => nomatch f
  | .refused r => .refused r

/-- One step of the host: the next statement of the innermost sequence (R90). -/
def scriptStep (h : ScriptState) : ScriptOutcome :=
  match h.todo with
  | [] => .ended h
  | .done :: k => .next { h with todo := k }
  | .stop :: _ => .next { h with todo := [] }
  | .command t i ports rest :: k =>
    match portValues h.names ports with
    | .error n => .unbound n
    | .ok vs => runCommand h t i vs (rest :: k)
  | .bind t o rest :: k =>
    match operandValue h.names o with
    | .error n => .unbound n
    | .ok v => .next { h with todo := rest :: k, names := bindName t v h.names }
  | .ite c yes no rest :: k =>
    match c.test h.names with
    | .error n => .unbound n
    | .ok b => .next { h with todo := (if b then yes else no) :: rest :: k }
  | .loop c body rest :: k =>
    match c.test h.names with
    | .error n => .unbound n
    | .ok true => .next { h with todo := body :: .loop c body rest :: k }
    | .ok false => .next { h with todo := rest :: k }
  | .out n rest :: k =>
    match lookupName n h.names with
    | none => .unbound n
    | some v => .next { h with todo := rest :: k, output := h.output ++ [v] }

/-- At most `fuel` steps; the host is still running if the fuel is used up first. -/
def runScript : Nat → ScriptState → ScriptOutcome
  | 0, h => .next h
  | fuel + 1, h =>
    match scriptStep h with
    | .next h' => runScript fuel h'
    | .ended h' => .ended h'
    | .unbound n => .unbound n
    | .refused r => .refused r

/-- A program about to run: no host name bound, the output list empty. -/
def ScriptState.start (p : Script) (block : State) : ScriptState := ⟨[p], [], [], block⟩

/-! ### The text of a script

One statement a line; a semicolon begins a comment (spec/95_test_vectors.md section 3). What R90 leaves
open in the text is log entry 13. -/

/-- What one line holds. -/
inductive ScriptLine where
  | blank
  | command (target : String) (i : Instr) (ports : List (Port × Operand))
  | bind (target : String) (value : Operand)
  | ifThen (c : Condition)
  | elseLine
  | whileDo (c : Condition)
  | endLine
  | out (name : String)
  | stop
deriving DecidableEq, Repr

/-- The words of R90, which are no host names. -/
def keywords : List String := ["if", "then", "else", "while", "do", "end", "out", "stop"]

/-- A comparison from its word (R90): an order sign that stands alone or admits equality too, a doubled
equality sign, or that sign negated. -/
def readComparison : List Char → Option Comparison
  | '<' :: admits => if admits = [] then some .lt else if admits = ['='] then some .le else none
  | '>' :: admits => if admits = [] then some .gt else if admits = ['='] then some .ge else none
  | [sign, '='] => if sign = '=' then some .eq else if sign = '!' then some .ne else none
  | _ => none

/-- A condition from its three words. -/
def readCondition (l op r : List Char) : Option Condition :=
  match readOperand l, readComparison op, readOperand r with
  | some x, some c, some y => some ⟨c, x, y⟩
  | _, _, _ => none

/-- A statement that binds a host name: to a numeral or a name, or to a command's RES. -/
def readBinding (line : List Char) : Option ScriptLine :=
  match splitFirst '=' line with
  | none => none
  | some (l, r) =>
    let target := trim l
    if isName target && !keywords.contains (String.ofList target) then
      match readOperand (trim r) with
      | some o => some (.bind (String.ofList target) o)
      | none => (readCommand r).map fun (i, ports) => .command (String.ofList target) i ports
    else none

/-- One line, its comment removed. The words of a control statement, the comparison and its two sides
among them, must stand apart by blanks: `while x!=0 do` is refused (DESIGN CHOICE, log entry 13). -/
def readLine (line : List Char) : Option ScriptLine :=
  let text := line.takeWhile fun c => c ≠ ';'
  let words := (splitAll ' ' (text.map fun c => if isBlank c then ' ' else c)).filter (· ≠ [])
  match words.map String.ofList with
  | [] => some .blank
  | ["stop"] => some .stop
  | ["end"] => some .endLine
  | ["else"] => some .elseLine
  | ["out", n] => if isName n.toList && !keywords.contains n then some (.out n) else none
  | ["while", l, op, r, "do"] => (readCondition l.toList op.toList r.toList).map .whileDo
  | ["if", l, op, r, "then"] => (readCondition l.toList op.toList r.toList).map .ifThen
  | _ => readBinding text

/-- A sequence up to its `else`, its `end` or the end of the text, and the lines from there on. The
first argument bounds the depth of the reading; the number of lines is enough. -/
def readBlock : Nat → List ScriptLine → Option (Script × List ScriptLine)
  | 0, _ => none
  | _ + 1, [] => some (.done, [])
  | n + 1, line :: rest =>
    match line with
    | .blank => readBlock n rest
    | .elseLine => some (.done, line :: rest)
    | .endLine => some (.done, line :: rest)
    | .stop => (readBlock n rest).map fun (_, r) => (.stop, r)
    | .command t i ports => (readBlock n rest).map fun (k, r) => (.command t i ports k, r)
    | .bind t o => (readBlock n rest).map fun (k, r) => (.bind t o k, r)
    | .out t => (readBlock n rest).map fun (k, r) => (.out t k, r)
    | .whileDo c =>
      match readBlock n rest with
      | some (body, .endLine :: rest') => (readBlock n rest').map fun (k, r) => (.loop c body k, r)
      | _ => none
    | .ifThen c =>
      match readBlock n rest with
      | some (yes, .elseLine :: rest') =>
        match readBlock n rest' with
        | some (no, .endLine :: rest'') =>
          (readBlock n rest'').map fun (k, r) => (.ite c yes no k, r)
        | _ => none
      | _ => none

/-- The script a text stands for. -/
def readScript (text : List Char) : Option Script :=
  match (splitAll '\n' text).mapM readLine with
  | none => none
  | some lines =>
    match readBlock (lines.length + 1) lines with
    | some (p, []) => some p
    | _ => none

end Sys2Proof.Machine
end

