-- ==== Sys2Proof/Machine/Flags.lean ====
section
/-! DEFINITION. Flags. The block has none: no command sets, clears or reads a flag (spec/10_state.md rule
R25), and no command has a carry or an overflow output (spec/91_not_in_source.md). Its one status bit
is the output ILL, and this is its rule. -/

namespace Sys2Proof.Machine

/-- ILL is 1 when CMD is not a legal word, else 0, whatever the operands (R22, R221, R222, R225). -/
def illOf (cmd : Command) : Bit := if legalWord cmd then 0#1 else 1#1

end Sys2Proof.Machine
end

