-- ==== Sys2Proof/Safety.lean ====
section
/-! DEFINITION. The terms claims are stated in: when the block is as built and its outputs fit its
inputs, when inputs are in a command's domain, and what each operation's result is, bit by bit. The
results below are written from the words of the family rules, not from their pseudocode, and no
meaning uses them. -/

namespace Sys2Proof.Machine

/-! ### Safe states -/

/-- Both ROMs hold their contents (spec/10_state.md rule R33, spec/70_reset_and_hazards.md rule R240). -/
def RomsAsBuilt (s : State) : Prop := s.romMod37 = romMod37Contents ∧ s.romDb = romDbContents

/-- The outputs are outputs that some evaluation of the presented command could have given: ILL follows
the legality of CMD (R221, R222), an illegal word shows RES = 0 (R221), and a 32-bit command shows
RES[63:32] = 0 (R74). -/
structure OutputsFit (s : State) : Prop where
  ill_follows_cmd : s.ill = illOf s.cmd
  illegal_res_zero : s.ill = 1#1 → s.res = 0#64
  w32_high_half_zero : fieldW s.cmd = 0#1 → s.res.extractLsb' 32 32 = 0#32

/-- The state invariant. -/
structure Safe (s : State) : Prop where
  roms : RomsAsBuilt s
  outputs : OutputsFit s

/-! ### Domains -/

/-- The inputs are in the command's domain (R14, R101 to R103, R149, R184, R188). -/
def InDomain (i : Instr) (x : Inputs) : Prop :=
  match i with
  | .getW32 | .getW64 | .toggleW32 | .toggleW64 => IndexIn i.width x.k0.toInt
  | .setW32 | .setW64 => IndexIn i.width x.k0.toInt ∧ BitValueIn x.k1.toInt
  | .setmaskedW32 | .setmaskedW64 => BitValueIn x.k0.toInt
  | .swapW32 | .swapW64 => IndexIn i.width x.k0.toInt ∧ IndexIn i.width x.k1.toInt
  | .swapfieldW32 | .swapfieldW64 => FieldsIn i.width x.k0.toInt x.k1.toInt x.k2.toInt
  | .paritynW32 | .paritynW64 | .signextendW32 | .signextendW64 => SizeIn i.width x.k0.toInt
  | .rotateW32 | .rotateW64 => AmountIn i.width x.k0.toInt
  | .getmaskedW32 | .getmaskedW64 | .togglemaskedW32 | .togglemaskedW64
  | .countW32 | .countW64 | .parityW32 | .parityW64 | .scanW32 | .scanW64
  | .scanreverseW32 | .scanreverseW64 | .mergeW32 | .mergeW64
  | .interleaveW32 | .interleaveW64 | .reverseW32 | .reverseW64 => True

/-! ### Results, bit by bit -/

/-- How many bits of a W-bit value are 1. -/
def bitCount {w : Nat} (a : BitVec w) : Nat :=
  (Finset.univ.filter fun k : Fin w => a.getLsbD k = true).card

/-- The bit that a bitValue v writes: 1 or 0, or the open bit u for any other v (R102). -/
def writtenBit (v : Int) (u : Bool) : Bool := if v = 1 then true else if v = 0 then false else u

/-- GET: bit i as the number 0 or 1 (R104, R105). -/
def GetSpec (w : Nat) (a : BitVec w) (i : Int) (r : BitVec w) : Prop :=
  (IndexIn w i → r = (a >>> i.toNat) &&& 1#w) ∧ (¬IndexIn w i → r = Config.uGet w a i)

/-- GETMASKED: every bit outside the mask cleared (R106, R107). -/
def GetMaskedSpec (w : Nat) (a b r : BitVec w) : Prop :=
  ∀ k < w, r.getLsbD k = if b.getLsbD k then a.getLsbD k else false

/-- SET: bit i forced to bitValue and every other bit unchanged; a bitValue outside {0, 1} opens bit i
only (R102, R108, R109). -/
def SetSpec (w : Nat) (a : BitVec w) (i v : Int) (r : BitVec w) : Prop :=
  (IndexIn w i → ∀ k < w,
    r.getLsbD k = if (k : Int) = i then writtenBit v ((Config.uSetBit w a i v).getLsbD 0)
      else a.getLsbD k) ∧
  (¬IndexIn w i → r = Config.uSet w a i v)

/-- SETMASKED: every bit in the mask forced to bitValue and every other bit unchanged; a bitValue
outside {0, 1} opens the bits in the mask only (R102, R110, R111). -/
def SetMaskedSpec (w : Nat) (a b : BitVec w) (v : Int) (r : BitVec w) : Prop :=
  ∀ k < w, r.getLsbD k =
    if b.getLsbD k then writtenBit v ((Config.uSetM w a b v).getLsbD k) else a.getLsbD k

/-- TOGGLE: bit i flipped (R112, R113). -/
def ToggleSpec (w : Nat) (a : BitVec w) (i : Int) (r : BitVec w) : Prop :=
  (IndexIn w i → ∀ k < w, r.getLsbD k = if (k : Int) = i then !a.getLsbD k else a.getLsbD k) ∧
  (¬IndexIn w i → r = Config.uToggle w a i)

/-- TOGGLEMASKED: every bit in the mask flipped (R114, R115). -/
def ToggleMaskedSpec (w : Nat) (a b r : BitVec w) : Prop :=
  ∀ k < w, r.getLsbD k = if b.getLsbD k then !a.getLsbD k else a.getLsbD k

/-- SWAP: bits i and j exchanged (R116, R117). -/
def SwapSpec (w : Nat) (a : BitVec w) (i j : Int) (r : BitVec w) : Prop :=
  (IndexIn w i ∧ IndexIn w j → ∀ k < w,
    r.getLsbD k = if (k : Int) = i then a.getLsbD j.toNat
      else if (k : Int) = j then a.getLsbD i.toNat else a.getLsbD k) ∧
  (¬(IndexIn w i ∧ IndexIn w j) → r = Config.uSwap w a i j)

/-- SWAPFIELD: the fields [i, i+n) and [j, j+n) exchanged (R103, R118, R119). -/
def SwapFieldSpec (w : Nat) (a : BitVec w) (i j n : Int) (r : BitVec w) : Prop :=
  (FieldsIn w i j n → ∀ k < w,
    r.getLsbD k = if i ≤ (k : Int) ∧ (k : Int) < i + n then a.getLsbD (k - i + j).toNat
      else if j ≤ (k : Int) ∧ (k : Int) < j + n then a.getLsbD (k - j + i).toNat
      else a.getLsbD k) ∧
  (¬FieldsIn w i j n → r = Config.uSwapField w a i j n)

/-- COUNT: the number of set bits (R142, R143). -/
def CountSpec (w : Nat) (a r : BitVec w) : Prop := r.toNat = bitCount a

/-- PARITY: 1 when an odd number of bits are set, else 0 (R144, R145). -/
def ParitySpec (w : Nat) (a r : BitVec w) : Prop := r.toNat = bitCount a % 2

/-- How many of the ceil(W/n) groups of n bits have bit k set; group g is bits g*n+n-1..g*n, and
missing high bits read as 0 (R149). -/
def groupCount {w : Nat} (a : BitVec w) (n k : Nat) : Nat :=
  (Finset.univ.filter fun g : Fin ((w + n - 1) / n) => a.getLsbD (g * n + k) = true).card

/-- PARITYN: the exclusive-or of all n-bit groups, as an n-bit value (R146, R147, R149). -/
def ParityNSpec (w : Nat) (a : BitVec w) (n : Int) (r : BitVec w) : Prop :=
  (SizeIn w n → ∀ k < w,
    r.getLsbD k = decide ((k : Int) < n ∧ groupCount a n.toNat k % 2 = 1)) ∧
  (¬SizeIn w n → r = Config.uParityN w a n)

/-- SCAN: the index of the lowest set bit, or W when there is none (R162, R163). -/
def ScanSpec (w : Nat) (a r : BitVec w) : Prop :=
  (a = 0#w → r.toNat = w) ∧
  (a ≠ 0#w → r.toNat < w ∧ a.getLsbD r.toNat = true ∧ ∀ k < r.toNat, a.getLsbD k = false)

/-- SCANREVERSE: the index of the highest set bit, or 0 when there is none (R164, R165). -/
def ScanReverseSpec (w : Nat) (a r : BitVec w) : Prop :=
  (a = 0#w → r.toNat = 0) ∧
  (a ≠ 0#w → r.toNat < w ∧ a.getLsbD r.toNat = true ∧
    ∀ k, r.toNat < k → k < w → a.getLsbD k = false)

/-- MERGE: each bit set in the mask comes from y, each bit clear in it from x (R180, R181). -/
def MergeSpec (w : Nat) (a b c r : BitVec w) : Prop :=
  ∀ k < w, r.getLsbD k = if c.getLsbD k then b.getLsbD k else a.getLsbD k

/-- INTERLEAVE: y's low W/2 bits take the even positions, x's the odd (R182, R183). -/
def InterleaveSpec (w : Nat) (a b r : BitVec w) : Prop :=
  ∀ k < w / 2, r.getLsbD (2 * k) = b.getLsbD k ∧ r.getLsbD (2 * k + 1) = a.getLsbD k

/-- ROTATE: left by a positive n and right by a negative n, so bit k comes from bit (k - n) mod W
(R184, R185). -/
def RotateSpec (w : Nat) (a : BitVec w) (n : Int) (r : BitVec w) : Prop :=
  (AmountIn w n → ∀ k < w, r.getLsbD k = a.getLsbD (((k : Int) - n) % w).toNat) ∧
  (¬AmountIn w n → r = Config.uRotate w a n)

/-- REVERSE: bit k of the result is bit W-1-k of x (R186, R187). -/
def ReverseSpec (w : Nat) (a r : BitVec w) : Prop :=
  ∀ k < w, r.getLsbD k = a.getLsbD (w - 1 - k)

/-- SIGNEXTEND: the low n bits, with bit n-1 copied into every higher bit (R188, R189). -/
def SignExtendSpec (w : Nat) (a : BitVec w) (n : Int) (r : BitVec w) : Prop :=
  (SizeIn w n → ∀ k < w,
    r.getLsbD k = if (k : Int) < n then a.getLsbD k else a.getLsbD (n - 1).toNat) ∧
  (¬SizeIn w n → r = Config.uSignExtend w a n)

end Sys2Proof.Machine
end

