-- ==== Sys2Proof/Certificates/Slice0/Obligations.lean ====
section
/-! DEFINITION. The statements for the provers, from the numbered rules of spec/. The result statements
read one operation at both widths: the command words, completion from every state, the frame (the
record update names everything that changes) and the result, bit by bit (Sys2Proof/Safety.lean). -/

open Sys2Proof Sys2Proof.Machine

/-- GET returns bit i as 0 or 1, and U_GET for an index outside the word (R104, R105). -/
def Obligations.GetReadsBit : Prop :=
  (decode 0x00#8 = .command .getW32 ∧ decode 0x20#8 = .command .getW64) ∧
  (∀ s : State, ∃ r : BitVec 32,
    exec .getW32 s = .next { s with res := r.setWidth 64, ill := 0#1 } ∧
    GetSpec 32 (s.a.setWidth 32) s.k0.toInt r) ∧
  (∀ s : State, ∃ r : BitVec 64,
    exec .getW64 s = .next { s with res := r, ill := 0#1 } ∧
    GetSpec 64 s.a s.k0.toInt r)

/-- GETMASKED clears every bit outside the mask (R106, R107). -/
def Obligations.GetMaskedClearsOutsideMask : Prop :=
  (decode 0x01#8 = .command .getmaskedW32 ∧ decode 0x21#8 = .command .getmaskedW64) ∧
  (∀ s : State, ∃ r : BitVec 32,
    exec .getmaskedW32 s = .next { s with res := r.setWidth 64, ill := 0#1 } ∧
    GetMaskedSpec 32 (s.a.setWidth 32) (s.b.setWidth 32) r) ∧
  (∀ s : State, ∃ r : BitVec 64,
    exec .getmaskedW64 s = .next { s with res := r, ill := 0#1 } ∧
    GetMaskedSpec 64 s.a s.b r)

/-- SET forces bit i to bitValue and keeps every other bit (R108, R109). -/
def Obligations.SetForcesBit : Prop :=
  (decode 0x02#8 = .command .setW32 ∧ decode 0x22#8 = .command .setW64) ∧
  (∀ s : State, ∃ r : BitVec 32,
    exec .setW32 s = .next { s with res := r.setWidth 64, ill := 0#1 } ∧
    SetSpec 32 (s.a.setWidth 32) s.k0.toInt s.k1.toInt r) ∧
  (∀ s : State, ∃ r : BitVec 64,
    exec .setW64 s = .next { s with res := r, ill := 0#1 } ∧
    SetSpec 64 s.a s.k0.toInt s.k1.toInt r)

/-- SETMASKED forces the bits in the mask to bitValue and keeps the others (R110, R111). -/
def Obligations.SetMaskedForcesMaskedBits : Prop :=
  (decode 0x03#8 = .command .setmaskedW32 ∧ decode 0x23#8 = .command .setmaskedW64) ∧
  (∀ s : State, ∃ r : BitVec 32,
    exec .setmaskedW32 s = .next { s with res := r.setWidth 64, ill := 0#1 } ∧
    SetMaskedSpec 32 (s.a.setWidth 32) (s.b.setWidth 32) s.k0.toInt r) ∧
  (∀ s : State, ∃ r : BitVec 64,
    exec .setmaskedW64 s = .next { s with res := r, ill := 0#1 } ∧
    SetMaskedSpec 64 s.a s.b s.k0.toInt r)

/-- TOGGLE flips bit i and keeps every other bit (R112, R113). -/
def Obligations.ToggleFlipsBit : Prop :=
  (decode 0x04#8 = .command .toggleW32 ∧ decode 0x24#8 = .command .toggleW64) ∧
  (∀ s : State, ∃ r : BitVec 32,
    exec .toggleW32 s = .next { s with res := r.setWidth 64, ill := 0#1 } ∧
    ToggleSpec 32 (s.a.setWidth 32) s.k0.toInt r) ∧
  (∀ s : State, ∃ r : BitVec 64,
    exec .toggleW64 s = .next { s with res := r, ill := 0#1 } ∧
    ToggleSpec 64 s.a s.k0.toInt r)

/-- TOGGLEMASKED flips exactly the bits in the mask (R114, R115). -/
def Obligations.ToggleMaskedFlipsMaskedBits : Prop :=
  (decode 0x05#8 = .command .togglemaskedW32 ∧ decode 0x25#8 = .command .togglemaskedW64) ∧
  (∀ s : State, ∃ r : BitVec 32,
    exec .togglemaskedW32 s = .next { s with res := r.setWidth 64, ill := 0#1 } ∧
    ToggleMaskedSpec 32 (s.a.setWidth 32) (s.b.setWidth 32) r) ∧
  (∀ s : State, ∃ r : BitVec 64,
    exec .togglemaskedW64 s = .next { s with res := r, ill := 0#1 } ∧
    ToggleMaskedSpec 64 s.a s.b r)

/-- SWAP exchanges bits i and j and keeps every other bit (R116, R117). -/
def Obligations.SwapExchangesBits : Prop :=
  (decode 0x06#8 = .command .swapW32 ∧ decode 0x26#8 = .command .swapW64) ∧
  (∀ s : State, ∃ r : BitVec 32,
    exec .swapW32 s = .next { s with res := r.setWidth 64, ill := 0#1 } ∧
    SwapSpec 32 (s.a.setWidth 32) s.k0.toInt s.k1.toInt r) ∧
  (∀ s : State, ∃ r : BitVec 64,
    exec .swapW64 s = .next { s with res := r, ill := 0#1 } ∧
    SwapSpec 64 s.a s.k0.toInt s.k1.toInt r)

/-- SWAPFIELD exchanges two disjoint n-bit fields and keeps every other bit (R103, R118, R119). -/
def Obligations.SwapFieldExchangesFields : Prop :=
  (decode 0x07#8 = .command .swapfieldW32 ∧ decode 0x27#8 = .command .swapfieldW64) ∧
  (∀ s : State, ∃ r : BitVec 32,
    exec .swapfieldW32 s = .next { s with res := r.setWidth 64, ill := 0#1 } ∧
    SwapFieldSpec 32 (s.a.setWidth 32) s.k0.toInt s.k1.toInt s.k2.toInt r) ∧
  (∀ s : State, ∃ r : BitVec 64,
    exec .swapfieldW64 s = .next { s with res := r, ill := 0#1 } ∧
    SwapFieldSpec 64 s.a s.k0.toInt s.k1.toInt s.k2.toInt r)

/-- COUNT is the number of set bits (R142, R143). -/
def Obligations.CountIsPopulationCount : Prop :=
  (decode 0x08#8 = .command .countW32 ∧ decode 0x28#8 = .command .countW64) ∧
  (∀ s : State, ∃ r : BitVec 32,
    exec .countW32 s = .next { s with res := r.setWidth 64, ill := 0#1 } ∧
    CountSpec 32 (s.a.setWidth 32) r) ∧
  (∀ s : State, ∃ r : BitVec 64,
    exec .countW64 s = .next { s with res := r, ill := 0#1 } ∧
    CountSpec 64 s.a r)

/-- PARITY is 1 when an odd number of bits are set, else 0 (R144, R145). -/
def Obligations.ParityIsCountModTwo : Prop :=
  (decode 0x09#8 = .command .parityW32 ∧ decode 0x29#8 = .command .parityW64) ∧
  (∀ s : State, ∃ r : BitVec 32,
    exec .parityW32 s = .next { s with res := r.setWidth 64, ill := 0#1 } ∧
    ParitySpec 32 (s.a.setWidth 32) r) ∧
  (∀ s : State, ∃ r : BitVec 64,
    exec .parityW64 s = .next { s with res := r, ill := 0#1 } ∧
    ParitySpec 64 s.a r)

/-- PARITYN is the exclusive-or of all n-bit groups (R146, R147, R149). -/
def Obligations.ParityNFoldsGroups : Prop :=
  (decode 0x0A#8 = .command .paritynW32 ∧ decode 0x2A#8 = .command .paritynW64) ∧
  (∀ s : State, ∃ r : BitVec 32,
    exec .paritynW32 s = .next { s with res := r.setWidth 64, ill := 0#1 } ∧
    ParityNSpec 32 (s.a.setWidth 32) s.k0.toInt r) ∧
  (∀ s : State, ∃ r : BitVec 64,
    exec .paritynW64 s = .next { s with res := r, ill := 0#1 } ∧
    ParityNSpec 64 s.a s.k0.toInt r)

/-- SCAN is the index of the lowest set bit, or W when x = 0 (R162, R163). -/
def Obligations.ScanFindsLowestSetBit : Prop :=
  (decode 0x0B#8 = .command .scanW32 ∧ decode 0x2B#8 = .command .scanW64) ∧
  (∀ s : State, RomsAsBuilt s → ∃ r : BitVec 32,
    exec .scanW32 s = .next { s with res := r.setWidth 64, ill := 0#1 } ∧
    ScanSpec 32 (s.a.setWidth 32) r) ∧
  (∀ s : State, RomsAsBuilt s → ∃ r : BitVec 64,
    exec .scanW64 s = .next { s with res := r, ill := 0#1 } ∧
    ScanSpec 64 s.a r) ∧
  (∀ s : State, ∃ v : BitVec 6,
    s.romMod37.toList[(s.a.setWidth 32 &&& -(s.a.setWidth 32)).toNat % 37]? = some v ∧
    exec .scanW32 s = .next { s with res := v.setWidth 64, ill := 0#1 })

/-- SCANREVERSE is the index of the highest set bit, or 0 when x = 0 (R164, R165). -/
def Obligations.ScanReverseFindsHighestSetBit : Prop :=
  (decode 0x0C#8 = .command .scanreverseW32 ∧ decode 0x2C#8 = .command .scanreverseW64) ∧
  (∀ s : State, RomsAsBuilt s → ∃ r : BitVec 32,
    exec .scanreverseW32 s = .next { s with res := r.setWidth 64, ill := 0#1 } ∧
    ScanReverseSpec 32 (s.a.setWidth 32) r) ∧
  (∀ s : State, RomsAsBuilt s → ∃ r : BitVec 64,
    exec .scanreverseW64 s = .next { s with res := r, ill := 0#1 } ∧
    ScanReverseSpec 64 s.a r) ∧
  (∀ s : State, ∀ v1 v2 v4 v8 v16 : BitVec 32,
    v1 = s.a.setWidth 32 ||| (s.a.setWidth 32 >>> 1) → v2 = v1 ||| (v1 >>> 2) →
    v4 = v2 ||| (v2 >>> 4) → v8 = v4 ||| (v4 >>> 8) → v16 = v8 ||| (v8 >>> 16) →
    ∃ v : BitVec 5, s.romDb.toList[((v16 * 0x07C4ACDD#32) >>> 27).toNat]? = some v ∧
      exec .scanreverseW32 s = .next { s with res := v.setWidth 64, ill := 0#1 })

/-- MERGE takes y where the mask is 1 and x where it is 0 (R180, R181). -/
def Obligations.MergeSelectsByMask : Prop :=
  (decode 0x0D#8 = .command .mergeW32 ∧ decode 0x2D#8 = .command .mergeW64) ∧
  (∀ s : State, ∃ r : BitVec 32,
    exec .mergeW32 s = .next { s with res := r.setWidth 64, ill := 0#1 } ∧
    MergeSpec 32 (s.a.setWidth 32) (s.b.setWidth 32) (s.c.setWidth 32) r) ∧
  (∀ s : State, ∃ r : BitVec 64,
    exec .mergeW64 s = .next { s with res := r, ill := 0#1 } ∧
    MergeSpec 64 s.a s.b s.c r)

/-- INTERLEAVE puts y on the even and x on the odd positions (R182, R183). -/
def Obligations.InterleaveMakesMortonCode : Prop :=
  (decode 0x0E#8 = .command .interleaveW32 ∧ decode 0x2E#8 = .command .interleaveW64) ∧
  (∀ s : State, ∃ r : BitVec 32,
    exec .interleaveW32 s = .next { s with res := r.setWidth 64, ill := 0#1 } ∧
    InterleaveSpec 32 (s.a.setWidth 32) (s.b.setWidth 32) r) ∧
  (∀ s : State, ∃ r : BitVec 64,
    exec .interleaveW64 s = .next { s with res := r, ill := 0#1 } ∧
    InterleaveSpec 64 s.a s.b r)

/-- ROTATE moves every bit n places, left for a positive n and right for a negative n (R184, R185).
-/
def Obligations.RotateMovesBitsAround : Prop :=
  (decode 0x0F#8 = .command .rotateW32 ∧ decode 0x2F#8 = .command .rotateW64) ∧
  (∀ s : State, ∃ r : BitVec 32,
    exec .rotateW32 s = .next { s with res := r.setWidth 64, ill := 0#1 } ∧
    RotateSpec 32 (s.a.setWidth 32) s.k0.toInt r) ∧
  (∀ s : State, ∃ r : BitVec 64,
    exec .rotateW64 s = .next { s with res := r, ill := 0#1 } ∧
    RotateSpec 64 s.a s.k0.toInt r)

/-- REVERSE takes bit k from bit W-1-k (R186, R187). -/
def Obligations.ReverseReversesBits : Prop :=
  (decode 0x10#8 = .command .reverseW32 ∧ decode 0x30#8 = .command .reverseW64) ∧
  (∀ s : State, ∃ r : BitVec 32,
    exec .reverseW32 s = .next { s with res := r.setWidth 64, ill := 0#1 } ∧
    ReverseSpec 32 (s.a.setWidth 32) r) ∧
  (∀ s : State, ∃ r : BitVec 64,
    exec .reverseW64 s = .next { s with res := r, ill := 0#1 } ∧
    ReverseSpec 64 s.a r)

/-- SIGNEXTEND keeps the low w bits and copies bit w-1 above them (R188, R189). -/
def Obligations.SignExtendCopiesSignBit : Prop :=
  (decode 0x11#8 = .command .signextendW32 ∧ decode 0x31#8 = .command .signextendW64) ∧
  (∀ s : State, ∃ r : BitVec 32,
    exec .signextendW32 s = .next { s with res := r.setWidth 64, ill := 0#1 } ∧
    SignExtendSpec 32 (s.a.setWidth 32) s.k0.toInt r) ∧
  (∀ s : State, ∃ r : BitVec 64,
    exec .signextendW64 s = .next { s with res := r, ill := 0#1 } ∧
    SignExtendSpec 64 s.a s.k0.toInt r)

/-- From power-up the ROMs hold the tables of the spec (10_state.md R30, R31,
70_reset_and_hazards.md R240). -/
def Obligations.RomContentsAtReset : Prop :=
  State.reset.romMod37.toList =
    [32, 0, 1, 26, 2, 23, 27, 0, 3, 16, 24, 30, 28, 11, 0, 13, 4, 7, 17, 0, 25, 22, 31, 15, 29, 10,
     12, 6, 0, 21, 14, 9, 5, 20, 8, 19, 18] ∧
  State.reset.romDb.toList =
    [0, 9, 1, 10, 13, 21, 2, 29, 11, 14, 16, 18, 22, 25, 3, 30, 8, 12, 20, 28, 15, 17, 24, 7, 19, 27,
     23, 6, 26, 5, 4, 31]

/-- Both ROM hashes are perfect and the tables invert them (R32). -/
def Obligations.RomHashesArePerfect : Prop :=
  (∀ j k : Fin 32, 2 ^ j.val % 37 = 2 ^ k.val % 37 → j = k) ∧
  (∀ k : Fin 32, 2 ^ k.val % 37 ≠ 0 ∧
    State.reset.romMod37.toList[2 ^ k.val % 37]? = some (BitVec.ofNat 6 k)) ∧
  State.reset.romMod37.toList[0]? = some 32#6 ∧
  (∀ j k : Fin 32, (ones 32 (j + 1) * 0x07C4ACDD#32) >>> 27 = (ones 32 (k + 1) * 0x07C4ACDD#32) >>> 27 →
    j = k) ∧
  (∀ k : Fin 32, State.reset.romDb.toList[((ones 32 (k + 1) * 0x07C4ACDD#32) >>> 27).toNat]? =
    some (BitVec.ofNat 5 k))

/-- The MOD37 hash isolates the lowest set bit and never reads entries 7, 14, 19 and 28 (R161). -/
def Obligations.LowestBitHashReachesItsEntriesOnly : Prop :=
  (∀ a : BitVec 32, a = 0#32 → lowestBit a = 0#32 ∧ mod37Index a = 0) ∧
  (∀ (a : BitVec 32) (k : Nat), k < 32 → a.getLsbD k = true → (∀ j < k, a.getLsbD j = false) →
    (lowestBit a).toNat = 2 ^ k ∧ mod37Index a = 2 ^ k % 37) ∧
  (∀ a : BitVec 32, mod37Index a ∉ [7, 14, 19, 28] ∧ mod37Index a < 37) ∧
  mod37Index 0x80000000#32 = 22

/-- The 36 legal command words decode to the commands the table of R80 names. -/
def Obligations.CommandTableDecodes : Prop :=
  decode 0x00#8 = .command .getW32 ∧ decode 0x01#8 = .command .getmaskedW32 ∧
  decode 0x02#8 = .command .setW32 ∧ decode 0x03#8 = .command .setmaskedW32 ∧
  decode 0x04#8 = .command .toggleW32 ∧ decode 0x05#8 = .command .togglemaskedW32 ∧
  decode 0x06#8 = .command .swapW32 ∧ decode 0x07#8 = .command .swapfieldW32 ∧
  decode 0x08#8 = .command .countW32 ∧ decode 0x09#8 = .command .parityW32 ∧
  decode 0x0A#8 = .command .paritynW32 ∧ decode 0x0B#8 = .command .scanW32 ∧
  decode 0x0C#8 = .command .scanreverseW32 ∧ decode 0x0D#8 = .command .mergeW32 ∧
  decode 0x0E#8 = .command .interleaveW32 ∧ decode 0x0F#8 = .command .rotateW32 ∧
  decode 0x10#8 = .command .reverseW32 ∧ decode 0x11#8 = .command .signextendW32 ∧
  decode 0x20#8 = .command .getW64 ∧ decode 0x21#8 = .command .getmaskedW64 ∧
  decode 0x22#8 = .command .setW64 ∧ decode 0x23#8 = .command .setmaskedW64 ∧
  decode 0x24#8 = .command .toggleW64 ∧ decode 0x25#8 = .command .togglemaskedW64 ∧
  decode 0x26#8 = .command .swapW64 ∧ decode 0x27#8 = .command .swapfieldW64 ∧
  decode 0x28#8 = .command .countW64 ∧ decode 0x29#8 = .command .parityW64 ∧
  decode 0x2A#8 = .command .paritynW64 ∧ decode 0x2B#8 = .command .scanW64 ∧
  decode 0x2C#8 = .command .scanreverseW64 ∧ decode 0x2D#8 = .command .mergeW64 ∧
  decode 0x2E#8 = .command .interleaveW64 ∧ decode 0x2F#8 = .command .rotateW64 ∧
  decode 0x30#8 = .command .reverseW64 ∧ decode 0x31#8 = .command .signextendW64

/-- A word is legal exactly when CMD[7:6] = 00 and OP <= 0x11; 36 are, and every other behaves the
same way (R78, R79). -/
def Obligations.LegalWordsAreThirtySix : Prop :=
  (∀ cmd : Command,
    (∃ i, decode cmd = .command i) ↔ cmd.extractLsb' 6 2 = 0#2 ∧ (cmd.extractLsb' 0 5).toNat ≤ 0x11) ∧
  (∀ cmd : Command, (∃ i, decode cmd = .command i) ∨
    (decode cmd = .illegal .reservedBits ∧ 0x40 ≤ cmd.toNat) ∨
    (decode cmd = .illegal .reservedOperation ∧
      (0x12 ≤ cmd.toNat ∧ cmd.toNat ≤ 0x1F ∨ 0x32 ≤ cmd.toNat ∧ cmd.toNat ≤ 0x3F))) ∧
  (Finset.univ.filter fun cmd : Fin 256 => legalWord (BitVec.ofFin cmd) = true).card = 36 ∧
  (∀ cmd : Command, legalWord cmd = true ↔ ∃ i, decode cmd = .command i) ∧
  (∀ (s : State), legalWord s.cmd = false →
    step s = .next { s with res := 0#64, ill := 1#1 })

/-- Decoding and encoding are inverse, and a fetched command word runs its command (30_encoding.md
R70, R71, R72, R80). -/
def Obligations.DecodeAndEncodeAgree : Prop :=
  (∀ (cmd : Command) (i : Instr), decode cmd = .command i ↔ encode i = cmd) ∧
  (∀ i : Instr, decodeTableWord 8 (encode i).toNat = some i) ∧
  (∀ (i : Instr) (s : State), step (s.withFetchWord 8 (encode i).toNat) =
    exec i { s with cmd := encode i })

/-- A step runs the decoded command on the ports (00_scope.md R13, 10_state.md R24). -/
def Obligations.StepRunsDecodedCommand : Prop :=
  ∀ (s : State) (i : Instr), decode s.cmd = .command i → step s = exec i s

/-- An illegal command word gives ILL = 1 and RES = 0 and changes nothing else (R221, R225). -/
def Obligations.IllegalWordReported : Prop :=
  ∀ s : State, (∀ i, decode s.cmd ≠ .command i) → step s = .next { s with res := 0#64, ill := 1#1 }

/-- Every evaluation completes: ILL = 0 for a legal word, ILL = 1 and RES = 0 for an illegal one
(R220, R222, R223). -/
def Obligations.EveryEvaluationCompletes : Prop :=
  ∀ s : State, ∃ t : State, step s = .next t ∧
    (legalWord s.cmd = true → t.ill = 0#1) ∧
    (legalWord s.cmd = false → t.ill = 1#1 ∧ t.res = 0#64) ∧
    t.inputs = s.inputs ∧ t.romMod37 = s.romMod37 ∧ t.romDb = s.romDb

/-- Every command writes a zero-extended W-bit result and ILL = 0, and nothing else (30_encoding.md
R74, 40_bit_access.md R100, 41_count_parity.md R140, 42_bit_scan.md R160, 43_merge_permute.md R190).
-/
def Obligations.ResultHasCommandWidth : Prop :=
  ∀ (i : Instr) (s : State), ∃ r : BitVec i.width,
    exec i s = .next { s with res := r.setWidth 64, ill := 0#1 }

/-- A port a command does not read, and the ignored high halves, have no effect on RES or ILL (R77).
-/
def Obligations.UnreadPortsHaveNoEffect : Prop :=
  ∀ (i : Instr) (x y : Inputs),
    (∀ p ∈ reads i, p.view i.width x = p.view i.width y) → runOn i x = runOn i y

/-- One evaluation is a total function of the seven input ports (R13). -/
def Obligations.EvaluationIsFunctionOfInputs : Prop :=
  ∀ s : State, RomsAsBuilt s →
    outputsOf (step s) = eval s.inputs ∧ ∃ o : Outputs, eval s.inputs = .next o

/-- Evaluating the same inputs again changes nothing (20_memory.md R54). -/
def Obligations.EvaluationIsIdempotent : Prop :=
  ∀ s t : State, step s = .next t → step t = .next t

/-- The result of an evaluation is eval of its own inputs, whatever came before it (R56). -/
def Obligations.ResultIndependentOfHistory : Prop :=
  ∀ (before : List Inputs) (x : Inputs) (s : State), RomsAsBuilt s →
    ∃ t : State, evaluateAll before s = .next t ∧ outputsOf (evaluate x t) = eval x

/-- The state after reset meets the invariant (10_state.md R34, 70_reset_and_hazards.md R240). -/
def Obligations.ResetStateIsSafe : Prop :=
  Safe State.reset

/-- Every step keeps the ROMs as built and leaves outputs that fit the inputs (10_state.md R33,
30_encoding.md R74, 60_exceptions.md R221, R222). -/
def Obligations.StepKeepsSafe : Prop :=
  ∀ s t : State, Safe s → step s = .next t → Safe t

/-- The ROMs hold their contents from power-up and no sequence of evaluations changes them (R240).
-/
def Obligations.RomsNeverChange : Prop :=
  RomsAsBuilt State.reset ∧
  (∀ (xs : List Inputs) (t : State), evaluateAll xs State.reset = .next t → RomsAsBuilt t) ∧
  (∀ (xs : List Inputs) (s t : State), evaluateAll xs s = .next t →
    t.romMod37 = s.romMod37 ∧ t.romDb = s.romDb)

/-- GET after SET reads what was set, and TOGGLE twice is the identity (R120). -/
def Obligations.GetSetToggleLaws : Prop :=
  ∀ q ∈ [(32, Instr.getW32, Instr.setW32, Instr.toggleW32),
      (64, Instr.getW64, Instr.setW64, Instr.toggleW64)],
    ∀ x : Inputs, IndexIn q.1 x.k0.toInt →
      (∃ v, runOn q.2.2.1 { x with k1 := 1#32 } = .next ⟨v, 0#1⟩ ∧
        runOn q.2.1 { x with a := v } = .next ⟨1#64, 0#1⟩) ∧
      (∃ v, runOn q.2.2.1 { x with k1 := 0#32 } = .next ⟨v, 0#1⟩ ∧
        runOn q.2.1 { x with a := v } = .next ⟨0#64, 0#1⟩) ∧
      (∃ v, runOn q.2.2.2 x = .next ⟨v, 0#1⟩ ∧
        runOn q.2.2.2 { x with a := v } = .next ⟨(x.a.setWidth q.1).setWidth 64, 0#1⟩)

/-- SWAP and SWAPFIELD applied twice give x back, in domain (R121). -/
def Obligations.SwapsAreInvolutions : Prop :=
  ∀ q ∈ [(32, Instr.swapW32, Instr.swapfieldW32), (64, Instr.swapW64, Instr.swapfieldW64)],
    ∀ x : Inputs,
      (IndexIn q.1 x.k0.toInt → IndexIn q.1 x.k1.toInt →
        ∃ v, runOn q.2.1 x = .next ⟨v, 0#1⟩ ∧
          runOn q.2.1 { x with a := v } = .next ⟨(x.a.setWidth q.1).setWidth 64, 0#1⟩) ∧
      (FieldsIn q.1 x.k0.toInt x.k1.toInt x.k2.toInt →
        ∃ v, runOn q.2.2 x = .next ⟨v, 0#1⟩ ∧
          runOn q.2.2 { x with a := v } = .next ⟨(x.a.setWidth q.1).setWidth 64, 0#1⟩)

/-- The masked forms and the single-bit forms agree (R122). -/
def Obligations.MaskedFormsAgree : Prop :=
  ∀ q ∈ [(32, (Instr.getW32, Instr.getmaskedW32), (Instr.setW32, Instr.setmaskedW32),
        (Instr.toggleW32, Instr.togglemaskedW32)),
      (64, (Instr.getW64, Instr.getmaskedW64), (Instr.setW64, Instr.setmaskedW64),
        (Instr.toggleW64, Instr.togglemaskedW64))],
    ∀ x : Inputs, IndexIn q.1 x.k0.toInt →
      (BitValueIn x.k1.toInt → runOn q.2.2.1.1 x =
        runOn q.2.2.1.2 { x with b := 1#64 <<< x.k0.toInt.toNat, k0 := x.k1 }) ∧
      runOn q.2.2.2.1 x = runOn q.2.2.2.2 { x with b := 1#64 <<< x.k0.toInt.toNat } ∧
      (∃ v, runOn q.2.1.2 { x with b := 1#64 <<< x.k0.toInt.toNat } = .next ⟨v, 0#1⟩ ∧
        runOn q.2.1.1 x = .next ⟨v >>> x.k0.toInt.toNat, 0#1⟩)

/-- The bit-access commands agree across widths on zero high halves, in domain (R123). -/
def Obligations.BitAccessAgreesAcrossWidths : Prop :=
  ∀ q ∈ [(Instr.getW32, Instr.getW64), (Instr.getmaskedW32, Instr.getmaskedW64),
      (Instr.setW32, Instr.setW64), (Instr.setmaskedW32, Instr.setmaskedW64),
      (Instr.toggleW32, Instr.toggleW64), (Instr.togglemaskedW32, Instr.togglemaskedW64),
      (Instr.swapW32, Instr.swapW64), (Instr.swapfieldW32, Instr.swapfieldW64)],
    ∀ x : Inputs, x.a.extractLsb' 32 32 = 0#32 → x.b.extractLsb' 32 32 = 0#32 → InDomain q.1 x →
      InDomain q.2 x ∧ runOn q.1 x = runOn q.2 x

/-- The laws of COUNT, PARITY and PARITYN (R150). -/
def Obligations.CountParityLaws : Prop :=
  (∀ q ∈ [(32, Instr.countW32, Instr.parityW32, Instr.paritynW32),
      (64, Instr.countW64, Instr.parityW64, Instr.paritynW64)],
    ∀ x : Inputs,
      (x.a = 0#64 → runOn q.2.1 x = .next ⟨0#64, 0#1⟩) ∧
      (x.a = BitVec.allOnes 64 → runOn q.2.1 x = .next ⟨BitVec.ofNat 64 q.1, 0#1⟩) ∧
      (∃ v, runOn q.2.1 x = .next ⟨v, 0#1⟩ ∧ runOn q.2.2.1 x = .next ⟨v % 2#64, 0#1⟩) ∧
      runOn q.2.2.2 { x with k0 := 1#32 } = runOn q.2.2.1 x ∧
      runOn q.2.2.2 { x with k0 := BitVec.ofNat 32 q.1 } =
        .next ⟨(x.a.setWidth q.1).setWidth 64, 0#1⟩) ∧
  (∀ x : Inputs, x.a.extractLsb' 32 32 = 0#32 →
    runOn .countW64 x = runOn .countW32 x ∧ runOn .parityW64 x = runOn .parityW32 x)

/-- The not-found results of the scans, and which of them a found bit can also give (R166). -/
def Obligations.ScanSentinels : Prop :=
  (∀ x : Inputs, x.a = 0#64 →
    runOn .scanW32 x = .next ⟨32#64, 0#1⟩ ∧ runOn .scanW64 x = .next ⟨64#64, 0#1⟩ ∧
    runOn .scanreverseW32 x = .next ⟨0#64, 0#1⟩ ∧ runOn .scanreverseW64 x = .next ⟨0#64, 0#1⟩) ∧
  (∀ x : Inputs, x.a = 1#64 →
    runOn .scanreverseW32 x = .next ⟨0#64, 0#1⟩ ∧ runOn .scanreverseW64 x = .next ⟨0#64, 0#1⟩) ∧
  (∀ x : Inputs, x.a.setWidth 32 ≠ 0#32 →
    ∃ v : Data, runOn .scanW32 x = .next ⟨v, 0#1⟩ ∧ v.toNat < 32) ∧
  (∀ x : Inputs, x.a ≠ 0#64 → ∃ v : Data, runOn .scanW64 x = .next ⟨v, 0#1⟩ ∧ v.toNat < 64)

/-- The laws that tie SCAN, SCANREVERSE and GET together (R167). -/
def Obligations.ScanLaws : Prop :=
  ∀ q ∈ [(32, Instr.getW32, Instr.scanW32, Instr.scanreverseW32),
      (64, Instr.getW64, Instr.scanW64, Instr.scanreverseW64)],
    (∀ x : Inputs, x.a.setWidth q.1 ≠ 0#q.1 →
      ∃ l h : Data, runOn q.2.2.1 x = .next ⟨l, 0#1⟩ ∧ runOn q.2.2.2 x = .next ⟨h, 0#1⟩ ∧
        (l = h ↔ ∃ k < q.1, x.a.setWidth q.1 = 1#q.1 <<< k) ∧
        runOn q.2.1 { x with k0 := l.setWidth 32 } = .next ⟨1#64, 0#1⟩ ∧
        runOn q.2.1 { x with k0 := h.setWidth 32 } = .next ⟨1#64, 0#1⟩ ∧
        (∀ k < l.toNat, x.a.getLsbD k = false) ∧
        (∀ k, h.toNat < k → k < q.1 → x.a.getLsbD k = false)) ∧
    (∀ (x : Inputs) (k : Nat), k < q.1 → x.a = 1#64 <<< k →
      runOn q.2.2.1 x = .next ⟨BitVec.ofNat 64 k, 0#1⟩ ∧
      runOn q.2.2.2 x = .next ⟨BitVec.ofNat 64 k, 0#1⟩)

/-- The laws of REVERSE, ROTATE, MERGE, SIGNEXTEND and INTERLEAVE (R194). -/
def Obligations.MergePermuteLaws : Prop :=
  (∀ q ∈ [(32, Instr.reverseW32, Instr.rotateW32, Instr.mergeW32, Instr.signextendW32),
      (64, Instr.reverseW64, Instr.rotateW64, Instr.mergeW64, Instr.signextendW64)],
    ∀ x : Inputs,
      (∃ v, runOn q.2.1 x = .next ⟨v, 0#1⟩ ∧
        runOn q.2.1 { x with a := v } = .next ⟨(x.a.setWidth q.1).setWidth 64, 0#1⟩) ∧
      (AmountIn q.1 x.k0.toInt → ∃ v, runOn q.2.2.1 x = .next ⟨v, 0#1⟩ ∧
        runOn q.2.2.1 { x with a := v, k0 := -x.k0 } =
          .next ⟨(x.a.setWidth q.1).setWidth 64, 0#1⟩) ∧
      runOn q.2.2.2.1 { x with c := 0#64 } = .next ⟨(x.a.setWidth q.1).setWidth 64, 0#1⟩ ∧
      runOn q.2.2.2.1 { x with c := BitVec.allOnes 64 } =
        .next ⟨(x.b.setWidth q.1).setWidth 64, 0#1⟩ ∧
      runOn q.2.2.2.2 { x with k0 := BitVec.ofNat 32 q.1 } =
        .next ⟨(x.a.setWidth q.1).setWidth 64, 0#1⟩) ∧
  (∀ x : Inputs,
    runOn .signextendW32 { x with a := 0b1111#64, k0 := 4#32 } = .next ⟨0xFFFFFFFF#64, 0#1⟩ ∧
    runOn .signextendW32 { x with a := 0b0111#64, k0 := 4#32 } = .next ⟨7#64, 0#1⟩ ∧
    runOn .interleaveW32 { x with a := 0#64, b := 0xFFFF#64 } = .next ⟨0x55555555#64, 0#1⟩ ∧
    runOn .interleaveW32 { x with a := 0xFFFF#64, b := 0#64 } = .next ⟨0xAAAAAAAA#64, 0#1⟩)

/-- Where MERGE, INTERLEAVE and SIGNEXTEND agree across widths, and that ROTATE and REVERSE do not
(R195). -/
def Obligations.MergePermuteAcrossWidths : Prop :=
  (∀ x : Inputs, x.a.extractLsb' 32 32 = 0#32 → x.b.extractLsb' 32 32 = 0#32 →
    x.c.extractLsb' 32 32 = 0#32 → runOn .mergeW64 x = runOn .mergeW32 x) ∧
  (∀ x : Inputs, x.a.extractLsb' 16 16 = 0#16 → x.b.extractLsb' 16 16 = 0#16 →
    runOn .interleaveW64 x = runOn .interleaveW32 x) ∧
  (∀ x : Inputs, SizeIn 32 x.k0.toInt → ∃ r : BitVec 32,
    runOn .signextendW32 x = .next ⟨r.setWidth 64, 0#1⟩ ∧
    runOn .signextendW64 x = .next ⟨r.signExtend 64, 0#1⟩) ∧
  (∃ x : Inputs, x.a.extractLsb' 32 32 = 0#32 ∧ AmountIn 32 x.k0.toInt ∧
    runOn .rotateW64 x ≠ runOn .rotateW32 x) ∧
  (∃ x : Inputs, x.a.extractLsb' 32 32 = 0#32 ∧ runOn .reverseW64 x ≠ runOn .reverseW32 x)

/-- The SWAR realisation of COUNT is exact (41_count_parity.md R141). -/
def Obligations.SwarCountIsExact : Prop :=
  (∀ s : State, exec .countW32 s =
    .next { s with res := (countSwar32 (s.a.setWidth 32)).setWidth 64, ill := 0#1 }) ∧
  (∀ s : State, exec .countW64 s = .next { s with res := countSwar64 s.a, ill := 0#1 })

/-- The exclusive-or fold ending in 0x6996 realises PARITY (41_count_parity.md R148). -/
def Obligations.ParityFoldIsExact : Prop :=
  (∀ s : State, exec .parityW32 s =
    .next { s with res := (parityFold32 (s.a.setWidth 32)).setWidth 64, ill := 0#1 }) ∧
  (∀ s : State, exec .parityW64 s =
    .next { s with res := (parityFold64 s.a).setWidth 64, ill := 0#1 }) ∧
  (∀ k : Fin 16, (0x6996#16).getLsbD k = decide (bitCount (BitVec.ofNat 4 k) % 2 = 1))

/-- The magic-mask spreading, whose masks the spec takes from general knowledge, realises INTERLEAVE
for all operands (43_merge_permute.md R191). -/
def Obligations.InterleaveSpreadingIsExact : Prop :=
  (∀ s : State, exec .interleaveW32 s = .next
    { s with res := (spread16 (s.b.setWidth 32) ||| (spread16 (s.a.setWidth 32) <<< 1)).setWidth 64,
             ill := 0#1 }) ∧
  (∀ s : State, exec .interleaveW64 s = .next
    { s with res := spread32 s.b ||| (spread32 s.a <<< 1), ill := 0#1 })

/-- Five swap stages, whose masks the spec takes from general knowledge, reverse 32 bits, and six
reverse 64 (43_merge_permute.md R192). -/
def Obligations.ReverseStagesAreExact : Prop :=
  (∀ s : State, exec .reverseW32 s = .next
    { s with res := (reverseStages32 (s.a.setWidth 32)).setWidth 64, ill := 0#1 }) ∧
  (∀ s : State, exec .reverseW64 s = .next { s with res := reverseStages64 s.a, ill := 0#1 })

/-- The barrel shifter meets ROTATE inside its domain (R193). -/
def Obligations.BarrelShifterRotates : Prop :=
  (∀ s : State, AmountIn 32 s.k0.toInt → exec .rotateW32 s = .next
    { s with res := (rotateBarrel (s.a.setWidth 32) s.k0.toInt).setWidth 64, ill := 0#1 }) ∧
  (∀ s : State, AmountIn 64 s.k0.toInt → exec .rotateW64 s = .next
    { s with res := rotateBarrel s.a s.k0.toInt, ill := 0#1 })

/-- The four pseudo-commands expand onto their commands (30_encoding.md R82). That the condition of ROTR
is on the numeral as written is the model's choice (log entry 17). -/
def Obligations.PseudoCommandsExpand : Prop :=
  (∀ (x i : Operand),
    Pseudo.expand .bset false [(.A, x), (.K0, i)] =
      some (.setW32, [(.A, x), (.K0, i), (.K1, .num 1)]) ∧
    Pseudo.expand .bset true [(.A, x), (.K0, i)] =
      some (.setW64, [(.A, x), (.K0, i), (.K1, .num 1)]) ∧
    Pseudo.expand .bclr false [(.A, x), (.K0, i)] =
      some (.setW32, [(.A, x), (.K0, i), (.K1, .num 0)]) ∧
    Pseudo.expand .bclr true [(.A, x), (.K0, i)] =
      some (.setW64, [(.A, x), (.K0, i), (.K1, .num 0)]) ∧
    Pseudo.expand .ctz false [(.A, x)] = some (.scanW32, [(.A, x)]) ∧
    Pseudo.expand .ctz true [(.A, x)] = some (.scanW64, [(.A, x)])) ∧
  (∀ (x : Operand) (s : Int),
    Pseudo.expand .rotr false [(.A, x), (.K0, .num s)] =
      (if -32 < s ∧ s < 32 then some (.rotateW32, [(.A, x), (.K0, .num (-s))]) else none) ∧
    Pseudo.expand .rotr true [(.A, x), (.K0, .num s)] =
      (if -64 < s ∧ s < 64 then some (.rotateW64, [(.A, x), (.K0, .num (-s))]) else none))

/-- Assembling the listing of a command gives its CMD byte and its port values (30_encoding.md R81). That
an omitted port keeps its earlier value is the model's choice (log entry 14): R81 lets it be driven to
any value. -/
def Obligations.AssemblingAListingGivesItBack : Prop :=
  ∀ (i : Instr) (x y : Inputs), ∃ z : Inputs, assemble (listing i x) y = some z ∧
    z.cmd = encode i ∧
    (∀ p ∈ reads i, p.read z = p.read x) ∧ (∀ p, p ∉ reads i → p.read z = p.read y)

/-- A command statement of a host script binds the RES of its command and nothing else
(30_encoding.md R90). The values that reach the ports are those of `drivePorts`, and two points of it
are the model's choice: a 64-bit name on a K port drives its low 32 bits (log entry 9), and an omitted
port keeps its earlier value (log entry 14). -/
def Obligations.ScriptCommandBindsResult : Prop :=
  ∀ (h : ScriptState) (target : String) (i : Instr) (ports : List (Port × Operand))
    (rest : Script) (k : List Script) (vs : List (Port × BitVec 64)),
    RomsAsBuilt h.block → h.todo = .command target i ports rest :: k →
    portValues h.names ports = .ok vs →
    ∃ h' : ScriptState, ∃ v : Data, scriptStep h = .next h' ∧
      runOn i (drivePorts vs h.block.inputs) = .next ⟨v, 0#1⟩ ∧
      lookupName target h'.names = some v ∧
      (∀ n, n ≠ target → lookupName n h'.names = lookupName n h.names) ∧
      h'.output = h.output ∧ h'.todo = rest :: k ∧ RomsAsBuilt h'.block

/-- The control statements of a host script, and the end of a sequence (30_encoding.md R90). -/
def Obligations.ScriptControlFlow : Prop :=
  ∀ (h : ScriptState) (c : Condition) (n : String) (p q rest : Script) (k : List Script),
    (h.todo = [] → scriptStep h = .ended h) ∧
    (h.todo = .done :: k → scriptStep h = .next { h with todo := k }) ∧
    (h.todo = .stop :: k → scriptStep h = .next { h with todo := [] }) ∧
    (h.todo = .ite c p q rest :: k → c.test h.names = .ok true →
      scriptStep h = .next { h with todo := p :: rest :: k }) ∧
    (h.todo = .ite c p q rest :: k → c.test h.names = .ok false →
      scriptStep h = .next { h with todo := q :: rest :: k }) ∧
    (h.todo = .loop c p rest :: k → c.test h.names = .ok true →
      scriptStep h = .next { h with todo := p :: .loop c p rest :: k }) ∧
    (h.todo = .loop c p rest :: k → c.test h.names = .ok false →
      scriptStep h = .next { h with todo := rest :: k }) ∧
    (∀ v, h.todo = .out n rest :: k → lookupName n h.names = some v →
      scriptStep h = .next { h with todo := rest :: k, output := h.output ++ [v] })

/-- A binding statement of a host script binds the value of its numeral or name and nothing else. That a
script has such statements is the model's deduction from program P1 of 95_test_vectors.md (log entry
16), and the value of a numeral outside 64 bits is its choice (log entry 18). -/
def Obligations.ScriptBindingBindsValue : Prop :=
  ∀ (h : ScriptState) (target : String) (o : Operand) (v : Data) (rest : Script) (k : List Script),
    h.todo = .bind target o rest :: k → operandValue h.names o = .ok v →
    ∃ h' : ScriptState, scriptStep h = .next h' ∧
      lookupName target h'.names = some v ∧
      (∀ n, n ≠ target → lookupName n h'.names = lookupName n h.names) ∧
      h'.output = h.output ∧ h'.todo = rest :: k ∧ h'.block = h.block

/-- From T_SETTLE on, RES and ILL are eval of the current inputs; before, they may be anything, and a
change of CMD, of a port the command reads, or of any port under an illegal word starts the wait again;
the first evaluation after power-up is no exception (70_reset_and_hazards.md R241, R242, R244, R246). -/
def Obligations.SettledOutputsAreEval : Prop :=
  ∀ (elapsed observation : Nat) (s : State), RomsAsBuilt s →
    (Config.tSettle ≤ elapsed → observe elapsed observation s = eval s.inputs) ∧
    (elapsed < Config.tSettle → observe elapsed observation s =
      .next ⟨Config.unsettledRes observation, Config.unsettledIll observation⟩) ∧
    (∀ x : Inputs,
      (x.cmd ≠ s.cmd ∨
        (∃ i, decode s.cmd = .command i ∧ ∃ p ∈ reads i, p.read x ≠ p.read s.inputs) ∨
        ((∀ i, decode s.cmd ≠ .command i) ∧ x ≠ s.inputs)) →
      TimedBlock.change x ⟨s, elapsed⟩ = ⟨s.present x, 0⟩) ∧
    (∀ (x : Inputs) (n : Nat),
      (Config.tSettle ≤ n →
        ((TimedBlock.powerGood.change x).wait n).observe observation = eval x) ∧
      (n < Config.tSettle → ((TimedBlock.powerGood.change x).wait n).observe observation =
        .next ⟨Config.unsettledRes observation, Config.unsettledIll observation⟩))

/-- Between evaluations any input may change and no earlier evaluation matters; during one, a change of
the ports the command does not read leaves RES and ILL alone, and the wait for T_SETTLE goes on (R245).
-/
def Obligations.UnreadPortsMayChangeDuringEvaluation : Prop :=
  ∀ (t : TimedBlock) (observation : Nat) (x : Inputs), RomsAsBuilt t.block →
    (∀ n, Config.tSettle ≤ n → ((t.change x).wait n).observe observation = eval x) ∧
    (∀ (before : List Inputs) (s : State), evaluateAll before t.block = .next s →
      outputsOf (evaluate x s) = eval x) ∧
    (∀ i, decode t.block.cmd = .command i → x.cmd = t.block.cmd →
      (∀ p ∈ reads i, p.read x = p.read t.block.inputs) →
      (t.change x).observe observation = t.observe observation ∧
      ∀ n, Config.tSettle ≤ t.stable + n →
        ((t.change x).wait n).observe observation = eval t.block.inputs)

/-- One host drives the ports and changes nothing else that State holds; two at once are refused
(20_memory.md R58, 93_implementation_defined.md section 3). That RES and ILL keep their values is the
model's choice (log entry 2): the fields hold the outputs as last sampled, while those of the block
follow the inputs (10_state.md R34) and may show any value until they settle (R244). -/
def Obligations.PortsAreDrivenByOneHost : Prop :=
  ∀ (x y : Inputs) (more : List Inputs) (s : State),
    drive [] s = .next s ∧ drive [x] s = .next (s.present x) ∧
    (s.present x).inputs = x ∧ (s.present x).outputs = s.outputs ∧
    (s.present x).romMod37 = s.romMod37 ∧ (s.present x).romDb = s.romDb ∧
    drive (x :: y :: more) s = .refused .concurrentDriving

/-- An evaluation on one instance leaves every other instance as it is (20_memory.md R58,
60_exceptions.md R232). -/
def Obligations.InstancesAreIndependent : Prop :=
  ∀ (k : Nat) (x : Inputs) (blocks : List State), ∃ blocks' : List State,
    evaluateAt k x blocks = .next blocks' ∧ blocks'.length = blocks.length ∧
    (∀ j, j ≠ k → blocks'[j]? = blocks[j]?) ∧
    (∀ s, blocks[k]? = some s → ∃ t, evaluate x s = .next t ∧ blocks'[k]? = some t)
end

