-- ==== Sys2Proof/Laws/State.lean ====
section
/-! SUPPORT. One lemma per field per update of the state, so that no proof unfolds a record update. -/

namespace Sys2Proof.Machine

section withOutputs

variable (s : State) (r : Data) (b : Bit)

@[simp] theorem withOutputs_cmd : (s.withOutputs r b).cmd = s.cmd := rfl
@[simp] theorem withOutputs_a : (s.withOutputs r b).a = s.a := rfl
@[simp] theorem withOutputs_b : (s.withOutputs r b).b = s.b := rfl
@[simp] theorem withOutputs_c : (s.withOutputs r b).c = s.c := rfl
@[simp] theorem withOutputs_k0 : (s.withOutputs r b).k0 = s.k0 := rfl
@[simp] theorem withOutputs_k1 : (s.withOutputs r b).k1 = s.k1 := rfl
@[simp] theorem withOutputs_k2 : (s.withOutputs r b).k2 = s.k2 := rfl
@[simp] theorem withOutputs_res : (s.withOutputs r b).res = r := rfl
@[simp] theorem withOutputs_ill : (s.withOutputs r b).ill = b := rfl
@[simp] theorem withOutputs_romMod37 : (s.withOutputs r b).romMod37 = s.romMod37 := rfl
@[simp] theorem withOutputs_romDb : (s.withOutputs r b).romDb = s.romDb := rfl
@[simp] theorem withOutputs_inputs : (s.withOutputs r b).inputs = s.inputs := rfl
@[simp] theorem withOutputs_outputs : (s.withOutputs r b).outputs = ⟨r, b⟩ := rfl
@[simp] theorem withOutputs_withOutputs (r' : Data) (b' : Bit) :
    (s.withOutputs r b).withOutputs r' b' = s.withOutputs r' b' := rfl

end withOutputs

section present

variable (s : State) (x : Inputs)

@[simp] theorem present_cmd : (s.present x).cmd = x.cmd := rfl
@[simp] theorem present_a : (s.present x).a = x.a := rfl
@[simp] theorem present_b : (s.present x).b = x.b := rfl
@[simp] theorem present_c : (s.present x).c = x.c := rfl
@[simp] theorem present_k0 : (s.present x).k0 = x.k0 := rfl
@[simp] theorem present_k1 : (s.present x).k1 = x.k1 := rfl
@[simp] theorem present_k2 : (s.present x).k2 = x.k2 := rfl
@[simp] theorem present_res : (s.present x).res = s.res := rfl
@[simp] theorem present_ill : (s.present x).ill = s.ill := rfl
@[simp] theorem present_romMod37 : (s.present x).romMod37 = s.romMod37 := rfl
@[simp] theorem present_romDb : (s.present x).romDb = s.romDb := rfl
@[simp] theorem present_inputs : (s.present x).inputs = x := rfl
@[simp] theorem present_own_inputs : s.present s.inputs = s := rfl
@[simp] theorem present_present (y : Inputs) : (s.present x).present y = s.present y := rfl

end present

section inputs

variable (s : State)

@[simp] theorem inputs_cmd : s.inputs.cmd = s.cmd := rfl
@[simp] theorem inputs_a : s.inputs.a = s.a := rfl
@[simp] theorem inputs_b : s.inputs.b = s.b := rfl
@[simp] theorem inputs_c : s.inputs.c = s.c := rfl
@[simp] theorem inputs_k0 : s.inputs.k0 = s.k0 := rfl
@[simp] theorem inputs_k1 : s.inputs.k1 = s.k1 := rfl
@[simp] theorem inputs_k2 : s.inputs.k2 = s.k2 := rfl
@[simp] theorem outputs_res : s.outputs.res = s.res := rfl
@[simp] theorem outputs_ill : s.outputs.ill = s.ill := rfl

end inputs

section withFetchWord

variable (s : State) (nbits w : Nat)

@[simp] theorem withFetchWord_cmd : (s.withFetchWord nbits w).cmd = BitVec.ofNat 8 (w % 2 ^ nbits) := rfl
@[simp] theorem withFetchWord_a : (s.withFetchWord nbits w).a = s.a := rfl
@[simp] theorem withFetchWord_b : (s.withFetchWord nbits w).b = s.b := rfl
@[simp] theorem withFetchWord_c : (s.withFetchWord nbits w).c = s.c := rfl
@[simp] theorem withFetchWord_k0 : (s.withFetchWord nbits w).k0 = s.k0 := rfl
@[simp] theorem withFetchWord_k1 : (s.withFetchWord nbits w).k1 = s.k1 := rfl
@[simp] theorem withFetchWord_k2 : (s.withFetchWord nbits w).k2 = s.k2 := rfl
@[simp] theorem withFetchWord_res : (s.withFetchWord nbits w).res = s.res := rfl
@[simp] theorem withFetchWord_ill : (s.withFetchWord nbits w).ill = s.ill := rfl
@[simp] theorem withFetchWord_romMod37 : (s.withFetchWord nbits w).romMod37 = s.romMod37 := rfl
@[simp] theorem withFetchWord_romDb : (s.withFetchWord nbits w).romDb = s.romDb := rfl

end withFetchWord

end Sys2Proof.Machine
end

