-- ==== Sys2Proof/Laws/Host.lean ====
section
/-! SUPPORT. What the host-side operations do: the host names, the comparisons of a condition, and the
block with the host's clock. -/

namespace Sys2Proof.Machine

/-! ### Host names -/

/-- A name just bound has its value. -/
@[simp] theorem lookupName_bindName_self (n : String) (v : BitVec 64)
    (names : List (String × BitVec 64)) : lookupName n (bindName n v names) = some v := by
  induction names with
  | nil => simp [bindName, lookupName]
  | cons q _ ih =>
    by_cases h : q.1 = n <;> simp [bindName, lookupName, h, ih]

/-- Binding a name leaves every other name as it is. -/
theorem lookupName_bindName_of_ne {m n : String} (hne : m ≠ n) (v : BitVec 64)
    (names : List (String × BitVec 64)) :
    lookupName m (bindName n v names) = lookupName m names := by
  induction names with
  | nil => simp [bindName, lookupName, hne.symm]
  | cons q _ ih =>
    by_cases h : q.1 = n
    · simp [bindName, lookupName, h, hne.symm]
    · by_cases hm : q.1 = m <;> simp [bindName, lookupName, h, hm, hne, ih]

/-! ### Comparisons, as facts about unsigned numbers -/

section comparisons

variable (x y : BitVec 64)

theorem comparison_eq_iff : Comparison.test .eq x y = true ↔ x = y := by
  simp [Comparison.test, Ordering.isEq_iff_eq_eq, BitVec.toNat_inj]

theorem comparison_lt_iff : Comparison.test .lt x y = true ↔ x.toNat < y.toNat := by
  simp [Comparison.test, Nat.compare_eq_lt]

theorem comparison_le_iff : Comparison.test .le x y = true ↔ x.toNat ≤ y.toNat := by
  simp [Comparison.test, Nat.isLE_compare]

theorem comparison_gt_iff : Comparison.test .gt x y = true ↔ y.toNat < x.toNat := by
  simp [Comparison.test, Nat.compare_eq_gt]

theorem comparison_ge_iff : Comparison.test .ge x y = true ↔ y.toNat ≤ x.toNat := by
  simp [Comparison.test, Nat.isGE_compare]

theorem comparison_ne_iff : Comparison.test .ne x y = true ↔ x ≠ y := by
  simp [Comparison.test, BitVec.toNat_inj]

end comparisons

/-! ### The block and the host's clock -/

section timedBlock

variable (t : TimedBlock) (x : Inputs) (n : Nat)

@[simp] theorem change_block : (t.change x).block = t.block.present x := rfl
@[simp] theorem wait_block : (t.wait n).block = t.block := rfl
@[simp] theorem wait_stable : (t.wait n).stable = t.stable + n := rfl

/-- The ports a command needs held are those it reads (R245). -/
theorem heldPorts_of_command {cmd : Command} {i : Instr} (h : decode cmd = .command i) :
    heldPorts cmd = reads i := by simp [heldPorts, h]

/-- An illegal word needs every port held (R244). -/
theorem mem_heldPorts_of_illegal {cmd : Command} (h : ∀ i, decode cmd ≠ .command i) (p : Port) :
    p ∈ heldPorts cmd := by
  cases e : decode cmd with
  | command i => exact absurd e (h i)
  | illegal _ => cases p <;> simp [heldPorts, e, allPorts]

/-- When a change leaves the evaluation undisturbed. -/
theorem undisturbed_iff (y : Inputs) : undisturbed x y = true ↔
    x.cmd = y.cmd ∧ ∀ p ∈ heldPorts x.cmd, p.read x = p.read y := by
  simp [undisturbed]

theorem change_stable_of_undisturbed (h : undisturbed t.block.inputs x = true) :
    (t.change x).stable = t.stable := if_pos h

theorem change_stable_of_disturbed (h : undisturbed t.block.inputs x = false) :
    (t.change x).stable = 0 := if_neg (by simp [h])

end timedBlock

end Sys2Proof.Machine
end

