-- ==== Sys2Proof/Laws/Ops.lean ====
section
/-! SUPPORT. One lemma per shared operation, saying once everything it does; later proofs cite these
instead of unfolding the operations. -/

namespace Sys2Proof.Machine

/-- Everything `writeResult` can do: it answers a next state in which only RES and ILL differ. -/
theorem writeResult_next {w : Nat} (r : BitVec w) (s : State) :
    writeResult r s = .next (s.withOutputs (r.setWidth 64) 0#1) := rfl

/-- Everything `reportIllegal` can do. -/
theorem reportIllegal_next (s : State) : reportIllegal s = .next (s.withOutputs 0#64 1#1) := rfl

/-- What `writeResult` answers decides the state it leads to. -/
theorem writeResult_eq_next {w : Nat} {r : BitVec w} {s t : State}
    (h : writeResult r s = .next t) : t = s.withOutputs (r.setWidth 64) 0#1 := by
  rw [writeResult_next] at h
  exact (Host.Outcome.next.inj h).symm

/-- Bit k of `natOfBits n f` is `f k`. -/
theorem testBit_natOfBits (n : Nat) : ∀ (f : Nat → Bool) (k : Nat),
    (natOfBits n f).testBit k = (decide (k < n) && f k) := by
  induction n with
  | zero => simp [natOfBits]
  | succ n ih =>
    intro f k
    rw [natOfBits]
    cases k with
    | zero => cases f 0 <;> simp [Nat.testBit_zero]
    | succ k =>
      have half : ((f 0).toNat + 2 * natOfBits n fun k => f (k + 1)) / 2
          = natOfBits n fun k => f (k + 1) := by cases f 0 <;> simp; omega
      rw [Nat.testBit_succ, half, ih]
      simp

/-- Bit k of `ofBits w f` is `f k`. -/
@[simp] theorem getLsbD_ofBits (w k : Nat) (f : Nat → Bool) :
    (ofBits w f).getLsbD k = (decide (k < w) && f k) := by
  rw [ofBits, BitVec.getLsbD_ofNat, testBit_natOfBits, ← Bool.and_assoc, Bool.and_self]

/-- Bit k of `ones(n)`. -/
@[simp] theorem getLsbD_ones (w n k : Nat) :
    (ones w n).getLsbD k = (decide (k < w) && decide (k < n)) := by
  simp [ones, BitVec.getLsbD_ofNat, Nat.testBit_two_pow_sub_one]

/-- Bit k of `1 << i`. -/
@[simp] theorem getLsbD_bitAt (w i k : Nat) :
    (bitAt w i).getLsbD k = (decide (k < w) && decide (k = i)) := by
  rw [bitAt, BitVec.getLsbD_shiftLeft, BitVec.getLsbD_one, Bool.eq_iff_iff]
  simp only [Bool.and_eq_true, Bool.not_eq_true', decide_eq_true_eq, decide_eq_false_iff_not]
  omega

/-- Bit k of `rep_W(b)`. -/
@[simp] theorem getLsbD_rep (w k : Nat) (b : BitVec 1) :
    (rep w b).getLsbD k = (decide (k < w) && decide (b = 1#1)) := by
  unfold rep
  split <;> simp_all

/-! The same with the bounded index that `simp` prefers. -/

@[simp] theorem getElem_ofBits (w k : Nat) (f : Nat → Bool) (h : k < w) : (ofBits w f)[k] = f k := by
  rw [← BitVec.getLsbD_eq_getElem, getLsbD_ofBits, decide_eq_true h, Bool.true_and]

@[simp] theorem getElem_ones (w n k : Nat) (h : k < w) : (ones w n)[k] = decide (k < n) := by
  rw [← BitVec.getLsbD_eq_getElem, getLsbD_ones, decide_eq_true h, Bool.true_and]

@[simp] theorem getElem_bitAt (w i k : Nat) (h : k < w) : (bitAt w i)[k] = decide (k = i) := by
  rw [← BitVec.getLsbD_eq_getElem, getLsbD_bitAt, decide_eq_true h, Bool.true_and]

@[simp] theorem getElem_rep (w k : Nat) (b : BitVec 1) (h : k < w) :
    (rep w b)[k] = decide (b = 1#1) := by
  rw [← BitVec.getLsbD_eq_getElem, getLsbD_rep, decide_eq_true h, Bool.true_and]

/-- A population count is at most the width. -/
theorem popcount_le {w : Nat} (v : BitVec w) : popcount v ≤ w := by
  simpa [popcount] using List.countP_le_length (l := List.range w) (p := fun k => v.getLsbD k)

/-- Bit k of a 32-bit or 64-bit data operand (R73). -/
@[simp] theorem getLsbD_dataA (w k : Nat) (s : State) :
    (dataA w s).getLsbD k = (decide (k < w) && s.a.getLsbD k) := by simp [dataA]

@[simp] theorem getLsbD_dataB (w k : Nat) (s : State) :
    (dataB w s).getLsbD k = (decide (k < w) && s.b.getLsbD k) := by simp [dataB]

@[simp] theorem getLsbD_dataC (w k : Nat) (s : State) :
    (dataC w s).getLsbD k = (decide (k < w) && s.c.getLsbD k) := by simp [dataC]

end Sys2Proof.Machine
end

