-- ==== Sys2Proof/Laws/PerInstr.lean ====
section
/-! SUPPORT. Statements made command by command. `EncodedLegal`: the word the encoder gives a command
is a legal word (spec/30_encoding.md rule R78) whose W and OP fields are the command's (R70). -/

namespace Sys2Proof.Laws.EncodedLegal

/-- The encoded word passes both checks of R78 and its fields read back. -/
def Statement (i : Instr) : Prop :=
  legalWord (encode i) = true ∧ fieldW (encode i) = i.widthField ∧ fieldOp (encode i) = i.opField

theorem getW32 : Statement .getW32 := by unfold Statement; decide
theorem getmaskedW32 : Statement .getmaskedW32 := by unfold Statement; decide
theorem setW32 : Statement .setW32 := by unfold Statement; decide
theorem setmaskedW32 : Statement .setmaskedW32 := by unfold Statement; decide
theorem toggleW32 : Statement .toggleW32 := by unfold Statement; decide
theorem togglemaskedW32 : Statement .togglemaskedW32 := by unfold Statement; decide
theorem swapW32 : Statement .swapW32 := by unfold Statement; decide
theorem swapfieldW32 : Statement .swapfieldW32 := by unfold Statement; decide
theorem countW32 : Statement .countW32 := by unfold Statement; decide
theorem parityW32 : Statement .parityW32 := by unfold Statement; decide
theorem paritynW32 : Statement .paritynW32 := by unfold Statement; decide
theorem scanW32 : Statement .scanW32 := by unfold Statement; decide
theorem scanreverseW32 : Statement .scanreverseW32 := by unfold Statement; decide
theorem mergeW32 : Statement .mergeW32 := by unfold Statement; decide
theorem interleaveW32 : Statement .interleaveW32 := by unfold Statement; decide
theorem rotateW32 : Statement .rotateW32 := by unfold Statement; decide
theorem reverseW32 : Statement .reverseW32 := by unfold Statement; decide
theorem signextendW32 : Statement .signextendW32 := by unfold Statement; decide
theorem getW64 : Statement .getW64 := by unfold Statement; decide
theorem getmaskedW64 : Statement .getmaskedW64 := by unfold Statement; decide
theorem setW64 : Statement .setW64 := by unfold Statement; decide
theorem setmaskedW64 : Statement .setmaskedW64 := by unfold Statement; decide
theorem toggleW64 : Statement .toggleW64 := by unfold Statement; decide
theorem togglemaskedW64 : Statement .togglemaskedW64 := by unfold Statement; decide
theorem swapW64 : Statement .swapW64 := by unfold Statement; decide
theorem swapfieldW64 : Statement .swapfieldW64 := by unfold Statement; decide
theorem countW64 : Statement .countW64 := by unfold Statement; decide
theorem parityW64 : Statement .parityW64 := by unfold Statement; decide
theorem paritynW64 : Statement .paritynW64 := by unfold Statement; decide
theorem scanW64 : Statement .scanW64 := by unfold Statement; decide
theorem scanreverseW64 : Statement .scanreverseW64 := by unfold Statement; decide
theorem mergeW64 : Statement .mergeW64 := by unfold Statement; decide
theorem interleaveW64 : Statement .interleaveW64 := by unfold Statement; decide
theorem rotateW64 : Statement .rotateW64 := by unfold Statement; decide
theorem reverseW64 : Statement .reverseW64 := by unfold Statement; decide
theorem signextendW64 : Statement .signextendW64 := by unfold Statement; decide

end Sys2Proof.Laws.EncodedLegal
end

