-- ==== Sys2Proof/Laws/Results.lean ====
section
/-! SUPPORT. What the shared operations on W-bit values give, bit by bit: replaceBit, exchange, popcount,
foldGroups and rotateBy. -/

namespace Sys2Proof.Machine

/-- `replaceBit` writes bit i and keeps every other bit. -/
theorem getLsbD_replaceBit {w k : Nat} (a : BitVec w) (i : Nat) (v : BitVec 1) (hk : k < w) :
    (replaceBit a i v).getLsbD k = if k = i then v.getLsbD 0 else a.getLsbD k := by
  simp only [replaceBit, BitVec.getLsbD_or, BitVec.getLsbD_and, BitVec.getLsbD_not, getLsbD_bitAt,
    BitVec.getLsbD_shiftLeft, BitVec.getLsbD_setWidth]
  by_cases hi : k = i
  · subst hi
    simp [hk]
    intros
    omega
  · rw [if_neg hi]
    have high : i ≤ k → v.getLsbD (k - i) = false := fun _ =>
      BitVec.getLsbD_of_ge _ _ (by omega)
    by_cases hlt : k < i
    · simp [hk, hi, hlt]
    · simp [hk, hi, hlt, high (by omega)]

/-- What `exchange` does to one bit: it adds the masked difference of the two fields at both places. -/
theorem getLsbD_exchange {w k : Nat} (a m : BitVec w) (i j : Nat) (hk : k < w) :
    (exchange a i j m).getLsbD k =
      (a.getLsbD k
        ^^ (decide (i ≤ k) && (m.getLsbD (k - i) && (a.getLsbD k ^^ a.getLsbD (j + (k - i)))))
        ^^ (decide (j ≤ k) && (m.getLsbD (k - j) && (a.getLsbD (i + (k - j)) ^^ a.getLsbD k)))) := by
  unfold exchange
  by_cases hi : i ≤ k <;> by_cases hj : j ≤ k <;>
    simp only [BitVec.getLsbD_xor, BitVec.getLsbD_shiftLeft, BitVec.getLsbD_and,
      BitVec.getLsbD_ushiftRight, hk, hi, hj, Nat.add_sub_cancel'] <;>
    simp [hi, hj, Nat.not_lt.2, Nat.lt_of_not_le, Bool.and_comm, -BitVec.getLsbD_eq_getElem]

/-- `popcount` counts the set bits. -/
theorem popcount_eq_bitCount {w : Nat} (a : BitVec w) : popcount a = bitCount a := by
  unfold popcount bitCount
  rw [List.countP_eq_length_filter,
    ← List.toFinset_card_of_nodup (List.Nodup.filter _ List.nodup_range),
    ← Finset.card_map (f := ⟨Fin.val, Fin.val_injective⟩)]
  congr 1
  ext k
  simp only [List.mem_toFinset, List.mem_filter, List.mem_range, Finset.mem_map, Finset.mem_filter,
    Finset.mem_univ, true_and, Function.Embedding.coeFn_mk]
  constructor
  · rintro ⟨hk, hbit⟩
    exact ⟨⟨k, hk⟩, hbit, rfl⟩
  · rintro ⟨⟨k, hk⟩, hbit, rfl⟩
    exact ⟨hk, hbit⟩

/-- Bit k of `foldGroups` after f rounds: the parity of bit k over the first f groups. -/
theorem getLsbD_foldGroups {w : Nat} (n k : Nat) (hk : k < w) (f : Nat) :
    ∀ r s : BitVec w, (foldGroups (ones w n) n f r s).getLsbD k =
      (r.getLsbD k ^^ (decide (k < n) && decide ((Finset.univ.filter
        fun g : Fin f => s.getLsbD (g * n + k) = true).card % 2 = 1))) := by
  induction f with
  | zero => simp [foldGroups]
  | succ f ih =>
    intro r s
    unfold foldGroups
    split
    · rename_i hs
      subst hs
      simp
    · rw [ih, Fin.card_filter_univ_succ]
      have next : ∀ g : Fin f, n + (g.val * n + k) = (g.val + 1) * n + k := by
        intro g
        ring
      simp only [BitVec.getLsbD_xor, BitVec.getLsbD_and, getLsbD_ones, BitVec.getLsbD_ushiftRight,
        hk, Fin.val_zero, Fin.val_succ, next, Nat.zero_mul, Nat.zero_add]
      by_cases hn : k < n <;> simp [hn, -BitVec.getLsbD_eq_getElem]
      generalize (Finset.univ.filter
        fun g : Fin f => s.getLsbD ((g + 1) * n + k) = true).card = m
      cases s.getLsbD k <;> cases r.getLsbD k <;> simp <;>
        (try (rw [Bool.eq_iff_iff]; simp)) <;> omega

/-- Bit k of a left rotation by s. -/
theorem getLsbD_rotateBy {w k : Nat} (a : BitVec w) (s : Nat) (hs : s < w) (hk : k < w) :
    (rotateBy a s).getLsbD k = if k < s then a.getLsbD (k + w - s) else a.getLsbD (k - s) := by
  unfold rotateBy
  split
  · rename_i h
    subst h
    simp
  · split
    · rename_i h
      simp only [BitVec.getLsbD_or, BitVec.getLsbD_shiftLeft, BitVec.getLsbD_ushiftRight, h]
      have : w - s + k = k + w - s := by omega
      simp [this, -BitVec.getLsbD_eq_getElem]
    · rename_i h
      simp only [BitVec.getLsbD_or, BitVec.getLsbD_shiftLeft, BitVec.getLsbD_ushiftRight, h]
      rw [BitVec.getLsbD_of_ge a (w - s + k) (by omega)]
      simp [hk, -BitVec.getLsbD_eq_getElem]

end Sys2Proof.Machine
end

