-- ==== Sys2Proof/Tests/Slice0.lean ====
section
/-! SUPPORT. The model's own tests. Expected results are the worked examples of the family rules and the
rows of spec/95_test_vectors.md section 2; words are written out bit by bit from
spec/30_encoding.md rule R70 as RSV, W, OP. The witnesses at the end meet the hypotheses of the
statements. -/

namespace Sys2Proof.Tests

open Sys2Proof Sys2Proof.Machine

/-! ### Helpers -/

/-- All ports 0. -/
def ports : Inputs := ⟨0#8, 0#64, 0#64, 0#64, 0#32, 0#32, 0#32⟩

/-- One step with a word on CMD and the other ports as given. -/
def answer (cmd : Command) (x : Inputs) : Option Outputs :=
  match step (State.reset.present { x with cmd := cmd }) with
  | .next t => some t.outputs
  | .fault _ => none
  | .refused _ => none

/-! ### Well-formed words: each check refuses an ill-formed one (R78) -/

theorem test_reserved_bits_refused :
    reservedBitsClear 0x40#8 = false ∧ reservedBitsClear 0x8B#8 = false ∧
    reservedBitsClear 0xFF#8 = false ∧ legalWord 0x40#8 = false := by decide

theorem test_reserved_operation_refused :
    operationAssigned 0x12#8 = false ∧ operationAssigned 0x1F#8 = false ∧
    operationAssigned 0x32#8 = false ∧ legalWord 0x32#8 = false := by decide

theorem test_legal_words_pass : legalWord 0x00#8 = true ∧ legalWord 0x11#8 = true ∧
    legalWord 0x20#8 = true ∧ legalWord 0x31#8 = true := by decide

/-! ### Decoding: words written bit by bit, RSV = 00, then W, then OP (R70, R71, R72) -/

theorem test_decode_bit_access_w32 :
    decode (0b00#2 ++ 0b0#1 ++ 0b00000#5) = .command .getW32 ∧
    decode (0b00#2 ++ 0b0#1 ++ 0b00001#5) = .command .getmaskedW32 ∧
    decode (0b00#2 ++ 0b0#1 ++ 0b00010#5) = .command .setW32 ∧
    decode (0b00#2 ++ 0b0#1 ++ 0b00011#5) = .command .setmaskedW32 ∧
    decode (0b00#2 ++ 0b0#1 ++ 0b00100#5) = .command .toggleW32 ∧
    decode (0b00#2 ++ 0b0#1 ++ 0b00101#5) = .command .togglemaskedW32 ∧
    decode (0b00#2 ++ 0b0#1 ++ 0b00110#5) = .command .swapW32 ∧
    decode (0b00#2 ++ 0b0#1 ++ 0b00111#5) = .command .swapfieldW32 := by decide

theorem test_decode_bit_access_w64 :
    decode (0b00#2 ++ 0b1#1 ++ 0b00000#5) = .command .getW64 ∧
    decode (0b00#2 ++ 0b1#1 ++ 0b00001#5) = .command .getmaskedW64 ∧
    decode (0b00#2 ++ 0b1#1 ++ 0b00010#5) = .command .setW64 ∧
    decode (0b00#2 ++ 0b1#1 ++ 0b00011#5) = .command .setmaskedW64 ∧
    decode (0b00#2 ++ 0b1#1 ++ 0b00100#5) = .command .toggleW64 ∧
    decode (0b00#2 ++ 0b1#1 ++ 0b00101#5) = .command .togglemaskedW64 ∧
    decode (0b00#2 ++ 0b1#1 ++ 0b00110#5) = .command .swapW64 ∧
    decode (0b00#2 ++ 0b1#1 ++ 0b00111#5) = .command .swapfieldW64 := by decide

theorem test_decode_count_parity_w32 :
    decode (0b00#2 ++ 0b0#1 ++ 0b01000#5) = .command .countW32 ∧
    decode (0b00#2 ++ 0b0#1 ++ 0b01001#5) = .command .parityW32 ∧
    decode (0b00#2 ++ 0b0#1 ++ 0b01010#5) = .command .paritynW32 := by decide

theorem test_decode_count_parity_w64 :
    decode (0b00#2 ++ 0b1#1 ++ 0b01000#5) = .command .countW64 ∧
    decode (0b00#2 ++ 0b1#1 ++ 0b01001#5) = .command .parityW64 ∧
    decode (0b00#2 ++ 0b1#1 ++ 0b01010#5) = .command .paritynW64 := by decide

theorem test_decode_bit_scan_w32 :
    decode (0b00#2 ++ 0b0#1 ++ 0b01011#5) = .command .scanW32 ∧
    decode (0b00#2 ++ 0b0#1 ++ 0b01100#5) = .command .scanreverseW32 := by decide

theorem test_decode_bit_scan_w64 :
    decode (0b00#2 ++ 0b1#1 ++ 0b01011#5) = .command .scanW64 ∧
    decode (0b00#2 ++ 0b1#1 ++ 0b01100#5) = .command .scanreverseW64 := by decide

theorem test_decode_merge_permute_w32 :
    decode (0b00#2 ++ 0b0#1 ++ 0b01101#5) = .command .mergeW32 ∧
    decode (0b00#2 ++ 0b0#1 ++ 0b01110#5) = .command .interleaveW32 ∧
    decode (0b00#2 ++ 0b0#1 ++ 0b01111#5) = .command .rotateW32 ∧
    decode (0b00#2 ++ 0b0#1 ++ 0b10000#5) = .command .reverseW32 ∧
    decode (0b00#2 ++ 0b0#1 ++ 0b10001#5) = .command .signextendW32 := by decide

theorem test_decode_merge_permute_w64 :
    decode (0b00#2 ++ 0b1#1 ++ 0b01101#5) = .command .mergeW64 ∧
    decode (0b00#2 ++ 0b1#1 ++ 0b01110#5) = .command .interleaveW64 ∧
    decode (0b00#2 ++ 0b1#1 ++ 0b01111#5) = .command .rotateW64 ∧
    decode (0b00#2 ++ 0b1#1 ++ 0b10000#5) = .command .reverseW64 ∧
    decode (0b00#2 ++ 0b1#1 ++ 0b10001#5) = .command .signextendW64 := by decide

theorem test_illegal_words_rejected_by_name :
    decode 0x12#8 = .illegal .reservedOperation ∧ decode 0x1F#8 = .illegal .reservedOperation ∧
    decode 0x32#8 = .illegal .reservedOperation ∧ decode 0x3F#8 = .illegal .reservedOperation ∧
    decode 0x40#8 = .illegal .reservedBits ∧ decode 0x8B#8 = .illegal .reservedBits ∧
    decode 0xFF#8 = .illegal .reservedBits := by decide

theorem test_table_words : decodeTableWord 8 0x2B = some .scanW64 ∧ decodeTableWord 8 0x12 = none ∧
    decodeTableWord 16 0x00 = none := by decide

/-! ### Illegal words evaluate to ILL = 1 and RES = 0 (spec/95_test_vectors.md section 2.5) -/

theorem test_illegal_word_reported :
    answer 0x12#8 { ports with a := 0xFF#64 } = some ⟨0#64, 1#1⟩ ∧
    answer 0x3F#8 ports = some ⟨0#64, 1#1⟩ ∧ answer 0x8B#8 { ports with a := 1#64 } = some ⟨0#64, 1#1⟩ ∧
    answer 0xFF#8 ports = some ⟨0#64, 1#1⟩ := by decide

theorem test_unread_ports :
    answer 0x08#8 ⟨0#8, 0xF#64, 0x77#64, 0x88#64, 9#32, 10#32, 11#32⟩ = some ⟨4#64, 0#1⟩ ∧
    answer 0x11#8 ⟨0#8, 0x80#64, 0x77#64, 0x88#64, 8#32, 10#32, 11#32⟩ =
      some ⟨0xFFFFFF80#64, 0#1⟩ := by decide

/-! ### Commands, in domain -/

/-- R104. -/
theorem test_get_w32 :
    answer 0x00#8 { ports with a := 0x00000008#64, k0 := 3#32 } =
      some ⟨0x1#64, 0#1⟩ ∧
    answer 0x00#8 { ports with a := 0x80000000#64, k0 := 31#32 } =
      some ⟨0x1#64, 0#1⟩ ∧
    answer 0x00#8 { ports with a := 0x7FFFFFFF#64, k0 := 31#32 } =
      some ⟨0x0#64, 0#1⟩ := by decide

/-- R106. -/
theorem test_getmasked_w32 :
    answer 0x01#8 { ports with a := 0x12345678#64, b := 0x0000FFFF#64 } =
      some ⟨0x5678#64, 0#1⟩ ∧
    answer 0x01#8 { ports with a := 0xFFFFFFFF#64, b := 0x0#64 } =
      some ⟨0x0#64, 0#1⟩ ∧
    answer 0x01#8 { ports with a := 0xDEADBEEFCAFEF00D#64, b := 0xFFFFFFFFFFFFFFFF#64 } =
      some ⟨0xCAFEF00D#64, 0#1⟩ := by decide

/-- R108. -/
theorem test_set_w32 :
    answer 0x02#8 { ports with a := 0x00000000#64, k0 := 5#32, k1 := 1#32 } =
      some ⟨0x20#64, 0#1⟩ ∧
    answer 0x02#8 { ports with a := 0x7FFFFFFF#64, k0 := 31#32, k1 := 1#32 } =
      some ⟨0xFFFFFFFF#64, 0#1⟩ ∧
    answer 0x02#8 { ports with a := 0xFFFFFFFF#64, k0 := 0#32, k1 := 0#32 } =
      some ⟨0xFFFFFFFE#64, 0#1⟩ := by decide

/-- R110. -/
theorem test_setmasked_w32 :
    answer 0x03#8 { ports with a := 0x12345678#64, b := 0x0000FF00#64, k0 := 1#32 } =
      some ⟨0x1234FF78#64, 0#1⟩ ∧
    answer 0x03#8 { ports with a := 0x0#64, b := 0xFFFFFFFF#64, k0 := 1#32 } =
      some ⟨0xFFFFFFFF#64, 0#1⟩ ∧
    answer 0x03#8 { ports with a := 0xFFFFFFFF#64, b := 0x0F0F0F0F#64, k0 := 0#32 } =
      some ⟨0xF0F0F0F0#64, 0#1⟩ := by decide

/-- R112. -/
theorem test_toggle_w32 :
    answer 0x04#8 { ports with a := 0x00000001#64, k0 := 0#32 } =
      some ⟨0x0#64, 0#1⟩ ∧
    answer 0x04#8 { ports with a := 0x0#64, k0 := 31#32 } =
      some ⟨0x80000000#64, 0#1⟩ ∧
    answer 0x04#8 { ports with a := 0xFFFFFFFF#64, k0 := 16#32 } =
      some ⟨0xFFFEFFFF#64, 0#1⟩ := by decide

/-- R114. -/
theorem test_togglemasked_w32 :
    answer 0x05#8 { ports with a := 0xF0F0F0F0#64, b := 0xFFFFFFFF#64 } =
      some ⟨0xF0F0F0F#64, 0#1⟩ ∧
    answer 0x05#8 { ports with a := 0x12345678#64, b := 0x0#64 } =
      some ⟨0x12345678#64, 0#1⟩ ∧
    answer 0x05#8 { ports with a := 0x12345678#64, b := 0x12345678#64 } =
      some ⟨0x0#64, 0#1⟩ := by decide

/-- R116. -/
theorem test_swap_w32 :
    answer 0x06#8 { ports with a := 0x00000001#64, k0 := 0#32, k1 := 31#32 } =
      some ⟨0x80000000#64, 0#1⟩ ∧
    answer 0x06#8 { ports with a := 0x80000000#64, k0 := 31#32, k1 := 0#32 } =
      some ⟨0x1#64, 0#1⟩ ∧
    answer 0x06#8 { ports with a := 0x5#64, k0 := 0#32, k1 := 2#32 } =
      some ⟨0x5#64, 0#1⟩ := by decide

/-- R118. -/
theorem test_swapfield_w32 :
    answer 0x07#8 { ports with a := 0x0000ABCD#64, k0 := 0#32, k1 := 8#32, k2 := 8#32 } =
      some ⟨0xCDAB#64, 0#1⟩ ∧
    answer 0x07#8 { ports with a := 0x12345678#64, k0 := 0#32, k1 := 16#32, k2 := 16#32 } =
      some ⟨0x56781234#64, 0#1⟩ ∧
    answer 0x07#8 { ports with a := 0x12345678#64, k0 := 4#32, k1 := 24#32, k2 := 4#32 } =
      some ⟨0x17345628#64, 0#1⟩ := by decide

/-- R142. -/
theorem test_count_w32 :
    answer 0x08#8 { ports with a := 0xFFFFFFFF#64 } =
      some ⟨0x20#64, 0#1⟩ ∧
    answer 0x08#8 { ports with a := 0x0#64 } =
      some ⟨0x0#64, 0#1⟩ ∧
    answer 0x08#8 { ports with a := 0x80000000#64 } =
      some ⟨0x1#64, 0#1⟩ := by decide

/-- R144. -/
theorem test_parity_w32 :
    answer 0x09#8 { ports with a := 0x00000007#64 } =
      some ⟨0x1#64, 0#1⟩ ∧
    answer 0x09#8 { ports with a := 0x0#64 } =
      some ⟨0x0#64, 0#1⟩ ∧
    answer 0x09#8 { ports with a := 0xFFFFFFFF#64 } =
      some ⟨0x0#64, 0#1⟩ := by decide

/-- R146. -/
theorem test_parityn_w32 :
    answer 0x0A#8 { ports with a := 0x12345678#64, k0 := 8#32 } =
      some ⟨0x8#64, 0#1⟩ ∧
    answer 0x0A#8 { ports with a := 0x12345678#64, k0 := 1#32 } =
      some ⟨0x1#64, 0#1⟩ ∧
    answer 0x0A#8 { ports with a := 0x12345678#64, k0 := 4#32 } =
      some ⟨0x8#64, 0#1⟩ := by decide

/-- R162. -/
theorem test_scan_w32 :
    answer 0x0B#8 { ports with a := 0x00000008#64 } =
      some ⟨0x3#64, 0#1⟩ ∧
    answer 0x0B#8 { ports with a := 0x0#64 } =
      some ⟨0x20#64, 0#1⟩ ∧
    answer 0x0B#8 { ports with a := 0x1#64 } =
      some ⟨0x0#64, 0#1⟩ := by decide

/-- R164. -/
theorem test_scanreverse_w32 :
    answer 0x0C#8 { ports with a := 0x00000008#64 } =
      some ⟨0x3#64, 0#1⟩ ∧
    answer 0x0C#8 { ports with a := 0x0#64 } =
      some ⟨0x0#64, 0#1⟩ ∧
    answer 0x0C#8 { ports with a := 0x1#64 } =
      some ⟨0x0#64, 0#1⟩ := by decide

/-- R180. -/
theorem test_merge_w32 :
    answer 0x0D#8 { ports with a := 0x00000000#64, b := 0xFFFFFFFF#64, c := 0x0000FFFF#64 } =
      some ⟨0xFFFF#64, 0#1⟩ ∧
    answer 0x0D#8 { ports with a := 0x12345678#64, b := 0x9ABCDEF0#64, c := 0x0#64 } =
      some ⟨0x12345678#64, 0#1⟩ ∧
    answer 0x0D#8 { ports with a := 0x12345678#64, b := 0x9ABCDEF0#64, c := 0xFFFFFFFF#64 } =
      some ⟨0x9ABCDEF0#64, 0#1⟩ := by decide

/-- R182. -/
theorem test_interleave_w32 :
    answer 0x0E#8 { ports with a := 0x0005#64, b := 0x0003#64 } =
      some ⟨0x27#64, 0#1⟩ ∧
    answer 0x0E#8 { ports with a := 0x0#64, b := 0xFFFF#64 } =
      some ⟨0x55555555#64, 0#1⟩ ∧
    answer 0x0E#8 { ports with a := 0xFFFF#64, b := 0x0#64 } =
      some ⟨0xAAAAAAAA#64, 0#1⟩ := by decide

/-- R184. -/
theorem test_rotate_w32 :
    answer 0x0F#8 { ports with a := 0x80000001#64, k0 := 1#32 } =
      some ⟨0x3#64, 0#1⟩ ∧
    answer 0x0F#8 { ports with a := 0x80000001#64, k0 := -1#32 } =
      some ⟨0xC0000000#64, 0#1⟩ ∧
    answer 0x0F#8 { ports with a := 0x12345678#64, k0 := 0#32 } =
      some ⟨0x12345678#64, 0#1⟩ := by decide

/-- R186. -/
theorem test_reverse_w32 :
    answer 0x10#8 { ports with a := 0x12345678#64 } =
      some ⟨0x1E6A2C48#64, 0#1⟩ ∧
    answer 0x10#8 { ports with a := 0x1#64 } =
      some ⟨0x80000000#64, 0#1⟩ ∧
    answer 0x10#8 { ports with a := 0xFFFFFFFF#64 } =
      some ⟨0xFFFFFFFF#64, 0#1⟩ := by decide

/-- R188. -/
theorem test_signextend_w32 :
    answer 0x11#8 { ports with a := 0b1111#64, k0 := 4#32 } =
      some ⟨0xFFFFFFFF#64, 0#1⟩ ∧
    answer 0x11#8 { ports with a := 0b1111#64, k0 := 4#32 } =
      some ⟨0xFFFFFFFF#64, 0#1⟩ ∧
    answer 0x11#8 { ports with a := 0b0111#64, k0 := 4#32 } =
      some ⟨0x7#64, 0#1⟩ := by decide

/-- R105. -/
theorem test_get_w64 :
    answer 0x20#8 { ports with a := 0x8000000000000000#64, k0 := 63#32 } =
      some ⟨0x1#64, 0#1⟩ ∧
    answer 0x20#8 { ports with a := 0x100000000#64, k0 := 32#32 } =
      some ⟨0x1#64, 0#1⟩ := by decide

/-- R107. -/
theorem test_getmasked_w64 :
    answer 0x21#8 { ports with a := 0x123456789ABCDEF0#64, b := 0xFFFFFFFF00000000#64 } =
      some ⟨0x1234567800000000#64, 0#1⟩ ∧
    answer 0x21#8 { ports with a := 0xDEADBEEFCAFEF00D#64, b := 0xFFFF0000FFFF0000#64 } =
      some ⟨0xDEAD0000CAFE0000#64, 0#1⟩ := by decide

/-- R109. -/
theorem test_set_w64 :
    answer 0x22#8 { ports with a := 0xFFFFFFFFFFFFFFFF#64, k0 := 40#32, k1 := 0#32 } =
      some ⟨0xFFFFFEFFFFFFFFFF#64, 0#1⟩ ∧
    answer 0x22#8 { ports with a := 0x0#64, k0 := 63#32, k1 := 1#32 } =
      some ⟨0x8000000000000000#64, 0#1⟩ ∧
    answer 0x22#8 { ports with a := 0xFFFFFFFFFFFFFFFF#64, k0 := 32#32, k1 := 0#32 } =
      some ⟨0xFFFFFFFEFFFFFFFF#64, 0#1⟩ := by decide

/-- R111. -/
theorem test_setmasked_w64 :
    answer 0x23#8 { ports with a := 0xFFFFFFFFFFFFFFFF#64, b := 0x00000000FFFFFFFF#64, k0 := 0#32 } =
      some ⟨0xFFFFFFFF00000000#64, 0#1⟩ ∧
    answer 0x23#8 { ports with a := 0x0#64, b := 0xFFFFFFFF00000000#64, k0 := 1#32 } =
      some ⟨0xFFFFFFFF00000000#64, 0#1⟩ := by decide

/-- R113. -/
theorem test_toggle_w64 :
    answer 0x24#8 { ports with a := 0x0#64, k0 := 63#32 } =
      some ⟨0x8000000000000000#64, 0#1⟩ ∧
    answer 0x24#8 { ports with a := 0x8000000000000000#64, k0 := 63#32 } =
      some ⟨0x0#64, 0#1⟩ ∧
    answer 0x24#8 { ports with a := 0x0#64, k0 := 32#32 } =
      some ⟨0x100000000#64, 0#1⟩ := by decide

/-- R115. -/
theorem test_togglemasked_w64 :
    answer 0x25#8 { ports with a := 0x00000000FFFFFFFF#64, b := 0xFFFFFFFFFFFFFFFF#64 } =
      some ⟨0xFFFFFFFF00000000#64, 0#1⟩ ∧
    answer 0x25#8 { ports with a := 0x0123456789ABCDEF#64, b := 0xFFFFFFFFFFFFFFFF#64 } =
      some ⟨0xFEDCBA9876543210#64, 0#1⟩ := by decide

/-- R117. -/
theorem test_swap_w64 :
    answer 0x26#8 { ports with a := 0x0000000000000002#64, k0 := 1#32, k1 := 62#32 } =
      some ⟨0x4000000000000000#64, 0#1⟩ ∧
    answer 0x26#8 { ports with a := 0x1#64, k0 := 0#32, k1 := 63#32 } =
      some ⟨0x8000000000000000#64, 0#1⟩ ∧
    answer 0x26#8 { ports with a := 0x100000000#64, k0 := 32#32, k1 := 1#32 } =
      some ⟨0x2#64, 0#1⟩ := by decide

/-- R119. -/
theorem test_swapfield_w64 :
    answer 0x27#8 { ports with a := 0x00000000DEADBEEF#64, k0 := 0#32, k1 := 32#32, k2 := 32#32 } =
      some ⟨0xDEADBEEF00000000#64, 0#1⟩ ∧
    answer 0x27#8 { ports with a := 0x0123456789ABCDEF#64, k0 := 0#32, k1 := 32#32, k2 := 32#32 } =
      some ⟨0x89ABCDEF01234567#64, 0#1⟩ ∧
    answer 0x27#8 { ports with a := 0xFF#64, k0 := 0#32, k1 := 56#32, k2 := 8#32 } =
      some ⟨0xFF00000000000000#64, 0#1⟩ := by decide

/-- R143. -/
theorem test_count_w64 :
    answer 0x28#8 { ports with a := 0x00000000FFFFFFFF#64 } =
      some ⟨0x20#64, 0#1⟩ ∧
    answer 0x28#8 { ports with a := 0xFFFFFFFFFFFFFFFF#64 } =
      some ⟨0x40#64, 0#1⟩ ∧
    answer 0x28#8 { ports with a := 0x8000000000000001#64 } =
      some ⟨0x2#64, 0#1⟩ := by decide

/-- R145. -/
theorem test_parity_w64 :
    answer 0x29#8 { ports with a := 0x8000000000000001#64 } =
      some ⟨0x0#64, 0#1⟩ ∧
    answer 0x29#8 { ports with a := 0x100000000#64 } =
      some ⟨0x1#64, 0#1⟩ ∧
    answer 0x29#8 { ports with a := 0xFFFFFFFFFFFFFFFF#64 } =
      some ⟨0x0#64, 0#1⟩ := by decide

/-- R147. -/
theorem test_parityn_w64 :
    answer 0x2A#8 { ports with a := 0x0001000200040008#64, k0 := 16#32 } =
      some ⟨0xF#64, 0#1⟩ ∧
    answer 0x2A#8 { ports with a := 0x123456789ABCDEF0#64, k0 := 32#32 } =
      some ⟨0x88888888#64, 0#1⟩ ∧
    answer 0x2A#8 { ports with a := 0x123456789ABCDEF0#64, k0 := 64#32 } =
      some ⟨0x123456789ABCDEF0#64, 0#1⟩ := by decide

/-- R163. -/
theorem test_scan_w64 :
    answer 0x2B#8 { ports with a := 0x0000010000000000#64 } =
      some ⟨0x28#64, 0#1⟩ ∧
    answer 0x2B#8 { ports with a := 0x0#64 } =
      some ⟨0x40#64, 0#1⟩ ∧
    answer 0x2B#8 { ports with a := 0x100000000#64 } =
      some ⟨0x20#64, 0#1⟩ := by decide

/-- R165. -/
theorem test_scanreverse_w64 :
    answer 0x2C#8 { ports with a := 0x0000000100000000#64 } =
      some ⟨0x20#64, 0#1⟩ ∧
    answer 0x2C#8 { ports with a := 0x0#64 } =
      some ⟨0x0#64, 0#1⟩ ∧
    answer 0x2C#8 { ports with a := 0x1#64 } =
      some ⟨0x0#64, 0#1⟩ := by decide

/-- R181. -/
theorem test_merge_w64 :
    answer 0x2D#8 { ports with a := 0x1111111111111111#64, b := 0x2222222222222222#64, c := 0xFFFFFFFF00000000#64 } =
      some ⟨0x2222222211111111#64, 0#1⟩ ∧
    answer 0x2D#8 { ports with a := 0x0#64, b := 0xFFFFFFFFFFFFFFFF#64, c := 0x8000000000000001#64 } =
      some ⟨0x8000000000000001#64, 0#1⟩ := by decide

/-- R183. -/
theorem test_interleave_w64 :
    answer 0x2E#8 { ports with a := 0xFFFFFFFF#64, b := 0x0#64 } =
      some ⟨0xAAAAAAAAAAAAAAAA#64, 0#1⟩ ∧
    answer 0x2E#8 { ports with a := 0x12345678#64, b := 0x9ABCDEF0#64 } =
      some ⟨0x434C4F70737C7F80#64, 0#1⟩ ∧
    answer 0x2E#8 { ports with a := 0x0#64, b := 0xFFFFFFFF#64 } =
      some ⟨0x5555555555555555#64, 0#1⟩ := by decide

/-- R185. -/
theorem test_rotate_w64 :
    answer 0x2F#8 { ports with a := 0x0000000000000001#64, k0 := -1#32 } =
      some ⟨0x8000000000000000#64, 0#1⟩ ∧
    answer 0x2F#8 { ports with a := 0x0123456789ABCDEF#64, k0 := 8#32 } =
      some ⟨0x23456789ABCDEF01#64, 0#1⟩ ∧
    answer 0x2F#8 { ports with a := 0x0123456789ABCDEF#64, k0 := 32#32 } =
      some ⟨0x89ABCDEF01234567#64, 0#1⟩ := by decide

/-- R187. -/
theorem test_reverse_w64 :
    answer 0x30#8 { ports with a := 0x0123456789ABCDEF#64 } =
      some ⟨0xF7B3D591E6A2C480#64, 0#1⟩ ∧
    answer 0x30#8 { ports with a := 0x1#64 } =
      some ⟨0x8000000000000000#64, 0#1⟩ ∧
    answer 0x30#8 { ports with a := 0x12345678#64 } =
      some ⟨0x1E6A2C4800000000#64, 0#1⟩ := by decide

/-- R189. -/
theorem test_signextend_w64 :
    answer 0x31#8 { ports with a := 0x80#64, k0 := 8#32 } =
      some ⟨0xFFFFFFFFFFFFFF80#64, 0#1⟩ ∧
    answer 0x31#8 { ports with a := 0xFFFFFFFF#64, k0 := 32#32 } =
      some ⟨0xFFFFFFFFFFFFFFFF#64, 0#1⟩ ∧
    answer 0x31#8 { ports with a := 0x7FFFFFFF#64, k0 := 32#32 } =
      some ⟨0x7FFFFFFF#64, 0#1⟩ := by decide

/-! ### Commands, out of domain: the U_* value the rule names, and ILL = 0 -/

theorem test_get_w32_out_of_domain :
    answer 0x00#8 { ports with a := 0x5#64, k0 := 32#32 } =
      some ⟨(Config.uGet 32 0x5#32 32).setWidth 64, 0#1⟩ ∧
    answer 0x00#8 { ports with a := 0x5#64, k0 := -1#32 } =
      some ⟨(Config.uGet 32 0x5#32 (-1)).setWidth 64, 0#1⟩ := ⟨rfl, rfl⟩

theorem test_get_w64_out_of_domain :
    answer 0x20#8 { ports with a := 0x1#64, k0 := 64#32 } =
      some ⟨(Config.uGet 64 0x1#64 64).setWidth 64, 0#1⟩ := rfl

theorem test_set_w32_out_of_domain :
    answer 0x02#8 { ports with k0 := 32#32, k1 := 1#32 } =
      some ⟨(Config.uSet 32 0x0#32 32 1).setWidth 64, 0#1⟩ := rfl

theorem test_set_w64_out_of_domain :
    answer 0x22#8 { ports with k0 := -1#32, k1 := 1#32 } =
      some ⟨(Config.uSet 64 0x0#64 (-1) 1).setWidth 64, 0#1⟩ := rfl

theorem test_toggle_w32_out_of_domain :
    answer 0x04#8 { ports with k0 := 40#32 } =
      some ⟨(Config.uToggle 32 0x0#32 40).setWidth 64, 0#1⟩ := rfl

theorem test_toggle_w64_out_of_domain :
    answer 0x24#8 { ports with k0 := 64#32 } =
      some ⟨(Config.uToggle 64 0x0#64 64).setWidth 64, 0#1⟩ := rfl

theorem test_swap_w32_out_of_domain :
    answer 0x06#8 { ports with a := 1#64, k1 := 32#32 } =
      some ⟨(Config.uSwap 32 0x1#32 0 32).setWidth 64, 0#1⟩ := rfl

theorem test_swap_w64_out_of_domain :
    answer 0x26#8 { ports with a := 1#64, k0 := 64#32 } =
      some ⟨(Config.uSwap 64 0x1#64 64 0).setWidth 64, 0#1⟩ := rfl

theorem test_swapfield_w32_out_of_domain :
    answer 0x07#8 { ports with a := 0xABCD#64, k1 := 4#32, k2 := 8#32 } =
      some ⟨(Config.uSwapField 32 0xABCD#32 0 4 8).setWidth 64, 0#1⟩ ∧
    answer 0x07#8 { ports with a := 0xABCD#64, k0 := 2#32, k1 := 2#32, k2 := 1#32 } =
      some ⟨(Config.uSwapField 32 0xABCD#32 2 2 1).setWidth 64, 0#1⟩ := ⟨rfl, rfl⟩

theorem test_swapfield_w64_out_of_domain :
    answer 0x27#8 { ports with a := 0x1#64, k1 := 40#32, k2 := -1#32 } =
      some ⟨(Config.uSwapField 64 0x1#64 0 40 (-1)).setWidth 64, 0#1⟩ := rfl

theorem test_parityn_w32_out_of_domain :
    answer 0x0A#8 { ports with a := 0x12345678#64 } =
      some ⟨(Config.uParityN 32 0x12345678#32 0).setWidth 64, 0#1⟩ ∧
    answer 0x0A#8 { ports with a := 0x12345678#64, k0 := 33#32 } =
      some ⟨(Config.uParityN 32 0x12345678#32 33).setWidth 64, 0#1⟩ := ⟨rfl, rfl⟩

theorem test_parityn_w64_out_of_domain :
    answer 0x2A#8 { ports with a := 0x1#64, k0 := -3#32 } =
      some ⟨(Config.uParityN 64 0x1#64 (-3)).setWidth 64, 0#1⟩ := rfl

theorem test_rotate_w32_out_of_domain :
    answer 0x0F#8 { ports with a := 0x12345678#64, k0 := 32#32 } =
      some ⟨(Config.uRotate 32 0x12345678#32 32).setWidth 64, 0#1⟩ ∧
    answer 0x0F#8 { ports with a := 0x12345678#64, k0 := -32#32 } =
      some ⟨(Config.uRotate 32 0x12345678#32 (-32)).setWidth 64, 0#1⟩ := ⟨rfl, rfl⟩

theorem test_rotate_w64_out_of_domain :
    answer 0x2F#8 { ports with a := 0x1#64, k0 := 64#32 } =
      some ⟨(Config.uRotate 64 0x1#64 64).setWidth 64, 0#1⟩ := rfl

theorem test_signextend_w32_out_of_domain :
    answer 0x11#8 { ports with a := 0x1#64 } =
      some ⟨(Config.uSignExtend 32 0x1#32 0).setWidth 64, 0#1⟩ ∧
    answer 0x11#8 { ports with a := 0x1#64, k0 := 33#32 } =
      some ⟨(Config.uSignExtend 32 0x1#32 33).setWidth 64, 0#1⟩ := ⟨rfl, rfl⟩

theorem test_signextend_w64_out_of_domain :
    answer 0x31#8 { ports with a := 0x1#64, k0 := 65#32 } =
      some ⟨(Config.uSignExtend 64 0x1#64 65).setWidth 64, 0#1⟩ := rfl

/-- bitValue misuse opens bit 4 only (R102). -/
theorem test_set_w32_bad_bit_value :
    answer 0x02#8 { ports with a := 0x10#64, k0 := 4#32, k1 := 2#32 } =
      some ⟨(replaceBit 0x10#32 4 (Config.uSetBit 32 0x10#32 4 2)).setWidth 64, 0#1⟩ := rfl

/-- bitValue misuse opens the bits in the mask only, so mask 0 gives x (R102, R110). -/
theorem test_setmasked_w32_bad_bit_value :
    answer 0x03#8 { ports with a := 0x12345678#64, b := 0xFF#64, k0 := 2#32 } =
      some ⟨((0x12345678#32 &&& ~~~0xFF#32) |||
        (Config.uSetM 32 0x12345678#32 0xFF#32 2 &&& 0xFF#32)).setWidth 64, 0#1⟩ := rfl

/-! ### Notation and host scripts (R81, R82, R90) -/

theorem test_assemble_swapfield :
    assemble "SWAPFIELD.W32  A=0x0000ABCD, K0=0, K1=8, K2=8".toList ports =
      some { ports with cmd := 0x07#8, a := 0xABCD#64, k1 := 8#32, k2 := 8#32 } := by decide

theorem test_assemble_ignores_case_and_takes_negative_scalars :
    assemble "rotate.w32 A=0x80000001, K0=-1".toList ports =
      some { ports with cmd := 0x0F#8, a := 0x80000001#64, k0 := 0xFFFFFFFF#32 } ∧
    assemble "ROTATE.W32 A=-1, K0=1".toList ports = none := by decide

theorem test_assemble_needs_exactly_the_ports_read :
    assemble "COUNT.W32 A=1, K0=1".toList ports = none ∧
    assemble "MERGE.W32 A=1, C=1".toList ports = none := by decide

theorem test_assemble_pseudo_commands :
    assemble "ROTR.W64 A=0b101, K0=3".toList ports =
      some { ports with cmd := 0x2F#8, a := 5#64, k0 := 0xFFFFFFFD#32 } ∧
    assemble "BCLR.W32 A=7, K0=1".toList ports =
      some { ports with cmd := 0x02#8, a := 7#64, k0 := 1#32, k1 := 0#32 } ∧
    assemble "ROTR.W32 A=1, K0=32".toList ports = none := by decide

/-- The body of program P1 of spec/95_test_vectors.md, as text and as statements. -/
theorem test_read_script :
    readScript "while x != 0 do\n  k = SCAN.W32 A=x ; CMD 0x0B\n  out k\nend\nstop".toList =
      some (.loop ⟨.ne, .name "x", .num 0⟩
        (.command "k" .scanW32 [(.A, .name "x")] (.out "k" .done)) .stop) := by decide +kernel

theorem test_script_command_binds_result :
    (match scriptStep ⟨[.command "k" .scanW32 [(.A, .name "x")] .done], [("x", 0x28#64)], [],
        State.reset⟩ with
      | .next h => lookupName "k" h.names
      | _ => none) = some 3#64 := by decide

/-- Unsigned order, at both ends (R10): 2^63 is above 1, and a value is not above itself. -/
theorem test_comparisons :
    Comparison.test .gt 0x8000000000000000#64 1#64 = true ∧ Comparison.test .lt 1#64 1#64 = false ∧
    Comparison.test .le 1#64 1#64 = true ∧ Comparison.test .ge 1#64 2#64 = false ∧
    Comparison.test .ne 1#64 2#64 = true ∧ Comparison.test .eq 1#64 2#64 = false := by decide

/-- An unread port changed during an evaluation does not disturb it, a read one does (R244, R245). -/
theorem test_change_during_evaluation :
    (TimedBlock.change { ports with b := 5#64 } ⟨State.reset, 3⟩).stable = 3 ∧
    (TimedBlock.change { ports with k0 := 5#32 } ⟨State.reset, 3⟩).stable = 0 ∧
    (TimedBlock.change { ports with cmd := 0x08#8 } ⟨State.reset, 3⟩).stable = 0 := by decide

/-- Under an illegal word every port must hold still (R244); R245 excepts only a command's ports. -/
theorem test_change_under_illegal_word :
    (TimedBlock.change { ports with cmd := 0x12#8, b := 5#64 }
      ⟨State.reset.withFetchWord 8 0x12, 3⟩).stable = 0 ∧
    (TimedBlock.change { ports with cmd := 0x12#8 }
      ⟨State.reset.withFetchWord 8 0x12, 3⟩).stable = 3 := by decide

/-- The six spellings of R90, and two words that are none. -/
theorem test_read_comparison :
    (["==", "!=", "<", "<=", ">", ">=", "=", "<>"].map fun word => readComparison word.toList) =
      [some .eq, some .ne, some .lt, some .le, some .gt, some .ge, none, none] := by decide

theorem test_script_unbound_name :
    scriptStep ⟨[.out "k" .done], [], [], State.reset⟩ = .unbound "k" := by decide

/-! ### Witnesses: the hypotheses of the statements can be met -/

/-- Both sides of every domain test, at its edges (R101 to R103, R149, R184, R188). -/
theorem witness_index_edges : IndexIn 32 0 ∧ IndexIn 32 31 ∧ ¬IndexIn 32 32 ∧ ¬IndexIn 32 (-1) ∧
    IndexIn 64 63 ∧ ¬IndexIn 64 64 := by decide

theorem witness_fields_in : FieldsIn 32 0 16 16 ∧ FieldsIn 32 16 0 16 ∧ FieldsIn 32 3 3 0 ∧
    FieldsIn 32 32 32 0 ∧ FieldsIn 64 0 32 32 := by decide

theorem witness_fields_out : ¬FieldsIn 32 2 2 1 ∧ ¬FieldsIn 32 24 0 16 ∧ ¬FieldsIn 32 0 1 (-1) ∧
    ¬FieldsIn 64 0 33 32 := by decide

theorem witness_size_and_amount_edges : SizeIn 32 1 ∧ SizeIn 32 32 ∧ ¬SizeIn 32 0 ∧ ¬SizeIn 32 33 ∧
    AmountIn 32 31 ∧ AmountIn 32 (-31) ∧ ¬AmountIn 32 32 ∧ ¬AmountIn 32 (-32) ∧
    SizeIn 64 64 ∧ ¬SizeIn 64 65 ∧ AmountIn 64 63 ∧ ¬AmountIn 64 (-64) := by decide

theorem witness_bit_value_edges : BitValueIn 0 ∧ BitValueIn 1 ∧ ¬BitValueIn 2 ∧ ¬BitValueIn (-1) := by
  decide

/-- ScanFindsLowestSetBit, ScanReverseFindsHighestSetBit, EvaluationIsFunctionOfInputs,
ResultIndependentOfHistory, SettledOutputsAreEval: a block as built, x = 0 and x with a bit. -/
theorem witness_roms_as_built :
    RomsAsBuilt State.reset ∧ State.reset.a = 0#64 ∧
    RomsAsBuilt (State.reset.present { ports with a := 0x8000000000000000#64 }) ∧
    (State.reset.present { ports with a := 0x8000000000000000#64 }).a ≠ 0#64 := by
  refine ⟨⟨rfl, rfl⟩, rfl, ⟨rfl, rfl⟩, by decide⟩

/-- LowestBitHashReachesItsEntriesOnly: bit 31 is the lowest set bit of 0x80000000. -/
theorem witness_lowest_bit :
    (0x80000000#32).getLsbD 31 = true ∧ ∀ j < 31, (0x80000000#32).getLsbD j = false := by decide

/-- StepRunsDecodedCommand, and the other side in IllegalWordReported and LegalWordsAreThirtySix. -/
theorem witness_decoded_command : decode State.reset.cmd = .command .getW32 := by decide

theorem witness_illegal_word :
    legalWord (State.reset.withFetchWord 8 0x12).cmd = false ∧
    ∀ i, decode (State.reset.withFetchWord 8 0x12).cmd ≠ .command i := by
  refine ⟨by decide, fun i e => ?_⟩
  have h : decode (State.reset.withFetchWord 8 0x12).cmd = .illegal .reservedOperation := by decide
  rw [h] at e
  cases e

/-- UnreadPortsHaveNoEffect: inputs that differ on every port COUNT.W32 does not read. -/
theorem witness_unread_ports :
    (∀ p ∈ reads .countW32, p.view (Instr.countW32).width { ports with a := 0xF#64 } =
      p.view (Instr.countW32).width ⟨1#8, 0xF0000000F#64, 2#64, 3#64, 4#32, 5#32, 6#32⟩) ∧
    ({ ports with a := 0xF#64 } : Inputs) ≠ ⟨1#8, 0xF0000000F#64, 2#64, 3#64, 4#32, 5#32, 6#32⟩ := by
  decide

/-- EvaluationIsIdempotent and RomsNeverChange: a step and a sequence from reset. -/
theorem witness_step_answers :
    ∃ t, step State.reset = .next t ∧ evaluateAll [ports] State.reset = .next t := ⟨_, rfl, rfl⟩

/-- StepKeepsSafe: a safe state whose step answers. -/
theorem witness_safe_state_steps : Safe State.reset ∧ ∃ t, step State.reset = .next t :=
  ⟨⟨⟨rfl, rfl⟩, ⟨by decide, by decide, by decide⟩⟩, _, rfl⟩

/-- GetSetToggleLaws, SwapsAreInvolutions, MaskedFormsAgree, BarrelShifterRotates and
MergePermuteLaws: one set of ports in every domain of theirs, at both widths. -/
theorem witness_law_domains :
    IndexIn 32 (0#32).toInt ∧ IndexIn 64 (63#32).toInt ∧ BitValueIn (1#32).toInt ∧
    FieldsIn 32 (0#32).toInt (16#32).toInt (16#32).toInt ∧
    FieldsIn 64 (0#32).toInt (32#32).toInt (32#32).toInt ∧
    AmountIn 32 (-31#32).toInt ∧ AmountIn 64 (63#32).toInt ∧ SizeIn 32 (32#32).toInt := by decide

/-- BitAccessAgreesAcrossWidths: zero high halves, and a SWAPFIELD in its domain. -/
theorem witness_cross_width :
    (0xABCD#64).extractLsb' 32 32 = 0#32 ∧ (0x0#64).extractLsb' 32 32 = 0#32 ∧
    InDomain .swapfieldW32 { ports with a := 0xABCD#64, k1 := 8#32, k2 := 8#32 } := by
  refine ⟨by decide, by decide, ?_⟩
  unfold InDomain
  decide

/-- CountParityLaws, ScanSentinels and ScanLaws: x = 0, x = 1, all ones, a power of two, and zero high
halves. MergePermuteAcrossWidths: zero bits 31..16. -/
theorem witness_data_operands :
    (∃ x : Inputs, x.a = 0#64) ∧ (∃ x : Inputs, x.a = 1#64 ∧ x.a.setWidth 32 ≠ 0#32) ∧
    (∃ x : Inputs, x.a = BitVec.allOnes 64) ∧ (∃ x : Inputs, x.a = 1#64 <<< 63) ∧
    (∃ x : Inputs, x.a = 0xFFFF#64 ∧ x.a.extractLsb' 16 16 = 0#16 ∧ x.a.extractLsb' 32 32 = 0#32) := by
  refine ⟨⟨ports, rfl⟩, ⟨{ ports with a := 1#64 }, rfl, by decide⟩,
    ⟨{ ports with a := BitVec.allOnes 64 }, rfl⟩, ⟨{ ports with a := 1#64 <<< 63 }, rfl⟩,
    ⟨{ ports with a := 0xFFFF#64 }, rfl, by decide, by decide⟩⟩

/-- ScriptCommandBindsResult and ScriptControlFlow: a statement whose names are bound, and conditions
that are true and false. -/
theorem witness_script :
    portValues [("x", 0x28#64)] [(.A, .name "x")] = .ok [(.A, 0x28#64)] ∧
    (Condition.mk .ne (.name "x") (.num 0)).test [("x", 0x28#64)] = .ok true ∧
    (Condition.mk .lt (.name "x") (.num 0)).test [("x", 0x28#64)] = .ok false ∧
    lookupName "x" [("x", 0x28#64)] = some 0x28#64 := ⟨rfl, rfl, rfl, by decide⟩

/-- ScriptBindingBindsValue, ScriptControlFlow: operands with a value, and the end of a sequence. -/
theorem witness_script_binding :
    operandValue [] (.num (-1)) = .ok (BitVec.allOnes 64) ∧
    operandValue [("x", 0x28#64)] (.name "x") = .ok 0x28#64 ∧
    scriptStep ⟨[.done, .stop], [], [], State.reset⟩ = .next ⟨[.stop], [], [], State.reset⟩ :=
  ⟨rfl, rfl, rfl⟩

/-- SettledOutputsAreEval and UnreadPortsMayChangeDuringEvaluation: an observation late enough. -/
theorem witness_settled : ∃ elapsed, Config.tSettle ≤ elapsed := ⟨_, Nat.le_refl _⟩

/-- UnreadPortsMayChangeDuringEvaluation: with GET.W32 presented, B, C, K1 and K2 change. -/
theorem witness_unread_ports_change :
    decode State.reset.cmd = .command .getW32 ∧
    (⟨0#8, 0#64, 5#64, 6#64, 0#32, 7#32, 8#32⟩ : Inputs).cmd = State.reset.cmd ∧
    (∀ p ∈ reads .getW32,
      p.read ⟨0#8, 0#64, 5#64, 6#64, 0#32, 7#32, 8#32⟩ = p.read State.reset.inputs) ∧
    evaluateAll [ports] State.reset = .next State.reset := ⟨by decide, rfl, by decide, rfl⟩

/-- SettledOutputsAreEval: with GET.W32 presented, its port K0 changes, or CMD does. -/
theorem witness_read_port_changes :
    decode State.reset.cmd = .command .getW32 ∧
    (∃ p ∈ reads .getW32, p.read { ports with k0 := 1#32 } ≠ p.read State.reset.inputs) ∧
    ({ ports with cmd := 0x20#8 } : Inputs).cmd ≠ State.reset.cmd := by decide

/-- SettledOutputsAreEval: under the illegal word of witness_illegal_word, port B changes. -/
theorem witness_port_changes_under_illegal_word :
    ({ ports with cmd := 0x12#8, b := 1#64 } : Inputs) ≠ (State.reset.withFetchWord 8 0x12).inputs := by
  decide

/-- InstancesAreIndependent: an instance that exists. -/
theorem witness_instance : [State.reset, State.reset][1]? = some State.reset := rfl

end Sys2Proof.Tests
end

section
/-! PROOFS of the statements of spec/00_scope.md. What one step can do is said once here: which meaning
runs, that it reads no output port, and that it answers by writing RES and ILL and nothing else. -/

namespace Sys2Proof.Machine

/-! ### Which meaning a step runs -/

/-- A word that decodes to a command runs that command (R13, R79). -/
theorem step_of_command {s : State} {i : Instr} (h : decode s.cmd = .command i) :
    step s = exec i s := by simp only [step, h]

/-- A word that decodes to no command is reported (R79, R221). -/
theorem step_of_illegal {s : State} {e : DecodeError} (h : decode s.cmd = .illegal e) :
    step s = reportIllegal s := by simp only [step, h]

/-! ### No meaning reads the output ports -/

/-- The result written replaces whatever stood on RES and ILL. -/
@[simp] theorem writeResult_withOutputs {w : Nat} (v : BitVec w) (s : State) (r : Data) (b : Bit) :
    writeResult v (s.withOutputs r b) = writeResult v s := rfl

@[simp] theorem reportIllegal_withOutputs (s : State) (r : Data) (b : Bit) :
    reportIllegal (s.withOutputs r b) = reportIllegal s := rfl

/-- RES and ILL are outputs, not storage (R34): no command depends on what stood on them. -/
@[simp] theorem exec_withOutputs (i : Instr) (s : State) (r : Data) (b : Bit) :
    exec i (s.withOutputs r b) = exec i s := by
  cases i <;> exact writeResult_withOutputs _ s r b

@[simp] theorem step_withOutputs (s : State) (r : Data) (b : Bit) :
    step (s.withOutputs r b) = step s := by
  cases h : decode s.cmd with
  | command i =>
    rw [step_of_command h, step_of_command (s := s.withOutputs r b) h, exec_withOutputs]
  | illegal e =>
    rw [step_of_illegal h, step_of_illegal (s := s.withOutputs r b) h, reportIllegal_withOutputs]

/-! ### Everything a step can do -/

/-- Every command ends by writing a result of its own width (R74). -/
theorem exec_eq_writeResult (i : Instr) (s : State) :
    ∃ v : BitVec i.width, exec i s = writeResult v s := by
  cases i <;> exact ⟨_, rfl⟩

/-- A step always answers, and only RES and ILL can differ (R13, R220). -/
theorem step_eq_next (s : State) : ∃ r b, step s = .next (s.withOutputs r b) := by
  cases h : decode s.cmd with
  | command i =>
    obtain ⟨v, hv⟩ := exec_eq_writeResult i s
    exact ⟨_, _, by rw [step_of_command h, hv, writeResult_next]⟩
  | illegal e => exact ⟨_, _, by rw [step_of_illegal h, reportIllegal_next]⟩

/-! ### Evaluation as a function of the inputs -/

/-- A block as built differs from a freshly built one, given the same inputs, in its outputs only. -/
theorem present_reset_of_romsAsBuilt {s : State} (h : RomsAsBuilt s) :
    State.reset.present s.inputs = s.withOutputs State.reset.res State.reset.ill := by
  obtain ⟨hmod37, hdb⟩ := h
  simp [State.present, State.withOutputs, State.inputs, State.reset, hmod37, hdb]

/-- A step of a block as built gives `eval` of its inputs (R13). -/
theorem outputsOf_step_of_romsAsBuilt {s : State} (h : RomsAsBuilt s) :
    outputsOf (step s) = eval s.inputs := by
  rw [eval, evaluate, present_reset_of_romsAsBuilt h, step_withOutputs]

/-- `eval` is total (R13). -/
theorem eval_eq_next (x : Inputs) : ∃ o : Outputs, eval x = .next o := by
  obtain ⟨r, b, h⟩ := step_eq_next (State.reset.present x)
  exact ⟨⟨r, b⟩, by rw [eval, evaluate, h]; rfl⟩

/-! ### The statements -/

/-- Settles O30: no meaning reads RES or ILL, so the block as built stands for any block with the same
inputs; and every step answers. -/
theorem evaluationIsFunctionOfInputs : Obligations.EvaluationIsFunctionOfInputs := by
  unfold Obligations.EvaluationIsFunctionOfInputs
  intro s hroms
  exact ⟨outputsOf_step_of_romsAsBuilt hroms, eval_eq_next s.inputs⟩

/-- Settles O25: the decoder alone chooses the meaning a step runs. -/
theorem stepRunsDecodedCommand : Obligations.StepRunsDecodedCommand := by
  unfold Obligations.StepRunsDecodedCommand
  intro s i hdecode
  exact step_of_command hdecode

end Sys2Proof.Machine
end

section
/-! PROOFS of the statements of spec/10_state.md. What the decoder says of a command word is said
once here; from it, the outputs any step leaves fit the inputs, and no step writes a ROM. -/

namespace Sys2Proof

/-! ### What the decoder says of a word -/

open Laws.EncodedLegal in
/-- The word of every command is legal and its fields are the command's (R70, R78). -/
theorem encode_legal_fields (i : Instr) : Statement i := by
  cases i
  exacts [getW32, getmaskedW32, setW32, setmaskedW32, toggleW32, togglemaskedW32, swapW32,
    swapfieldW32, countW32, parityW32, paritynW32, scanW32, scanreverseW32, mergeW32,
    interleaveW32, rotateW32, reverseW32, signextendW32, getW64, getmaskedW64, setW64,
    setmaskedW64, toggleW64, togglemaskedW64, swapW64, swapfieldW64, countW64, parityW64,
    paritynW64, scanW64, scanreverseW64, mergeW64, interleaveW64, rotateW64, reverseW64,
    signextendW64]

/-- The W = 0 operation map inverts the fields of a command (R71). -/
theorem fields_of_instrW32 {n : Nat} {i : Instr} (h : instrW32 n = some i) :
    i.widthField = 0#1 ∧ i.opField.toNat = n := by
  unfold instrW32 at h
  split at h <;> cases h <;> exact ⟨rfl, rfl⟩

/-- The W = 1 operation map inverts the fields of a command (R71). -/
theorem fields_of_instrW64 {n : Nat} {i : Instr} (h : instrW64 n = some i) :
    i.widthField = 1#1 ∧ i.opField.toNat = n := by
  unfold instrW64 at h
  split at h <;> cases h <;> exact ⟨rfl, rfl⟩

/-- The operation map that W selects inverts the fields of a command (R71, R72). -/
theorem fields_of_operation_some {w : BitVec 1} {n : Nat} {i : Instr}
    (h : (if w = 0#1 then instrW32 else instrW64) n = some i) :
    i.widthField = w ∧ i.opField.toNat = n := by
  obtain rfl | rfl := BitVec.eq_zero_or_eq_one w
  · exact fields_of_instrW32 h
  · exact fields_of_instrW64 h

/-- Both operation maps are defined on every assigned OP (R71). -/
theorem lt_of_operation_none {w : BitVec 1} {n : Nat}
    (h : (if w = 0#1 then instrW32 else instrW64) n = none) : 0x11 < n := by
  have assigned : ∀ n < 0x12, instrW32 n ≠ none ∧ instrW64 n ≠ none := by decide
  by_contra hle
  obtain ⟨h32, h64⟩ := assigned n (by omega)
  split at h
  · exact h32 h
  · exact h64 h

/-- A word that decodes to a command has RSV = 00 and the fields of that command (R70, R78). -/
theorem fields_of_decode {cmd : Command} {i : Instr} (h : decode cmd = .command i) :
    fieldRsv cmd = 0#2 ∧ fieldW cmd = i.widthField ∧ fieldOp cmd = i.opField := by
  unfold decode at h
  split at h
  · cases h
  rename_i hrsv
  split at h
  case h_1 hop =>
    cases h
    obtain ⟨hw, hn⟩ := fields_of_operation_some hop
    exact ⟨not_not.1 hrsv, hw.symm, (BitVec.eq_of_toNat_eq hn).symm⟩
  case h_2 => cases h

/-- A command word is its three fields, high to low (R70). -/
theorem fields_append (cmd : Command) : fieldRsv cmd ++ fieldW cmd ++ fieldOp cmd = cmd := by
  simp only [fieldRsv, fieldW, fieldOp]
  rw [BitVec.extractLsb'_append_extractLsb'_eq_extractLsb' (start₂ := 6) (start₁ := 5) rfl,
    BitVec.extractLsb'_append_extractLsb'_eq_extractLsb' (start₂ := 5) (start₁ := 0) rfl]
  exact BitVec.extractLsb'_eq_self

/-- A word that decodes to a command is the word of that command (R79, R80). -/
theorem encode_of_decode {cmd : Command} {i : Instr} (h : decode cmd = .command i) :
    encode i = cmd := by
  obtain ⟨hrsv, hw, hop⟩ := fields_of_decode h
  rw [encode, ← hrsv, ← hw, ← hop, fields_append]

/-- A word that decodes to a command is legal (R78, R79). -/
theorem legalWord_of_command {cmd : Command} {i : Instr} (h : decode cmd = .command i) :
    legalWord cmd = true := by
  obtain ⟨hlegal, -, -⟩ := encode_legal_fields i
  exact encode_of_decode h ▸ hlegal

/-- A word that decodes to no command is not legal (R78, R79). -/
theorem legalWord_of_illegal {cmd : Command} {e : DecodeError} (h : decode cmd = .illegal e) :
    legalWord cmd = false := by
  unfold decode at h
  split at h
  · rename_i hrsv
    have : reservedBitsClear cmd = false := beq_eq_false_iff_ne.2 hrsv
    simp [legalWord, this]
  · split at h
    case h_1 => cases h
    case h_2 hop =>
      have hlt : 0x11 < (fieldOp cmd).toNat := lt_of_operation_none hop
      have : operationAssigned cmd = false := decide_eq_false (Nat.not_le.2 hlt)
      simp [legalWord, this]

namespace Machine

/-! ### What a step leaves on the outputs and in the ROMs -/

/-- The result of a command fits its word: ILL = 0, and a 32-bit result has no high half (R74,
R222). -/
theorem outputsFit_of_command {s : State} {i : Instr} (h : decode s.cmd = .command i)
    (v : BitVec i.width) : OutputsFit (s.withOutputs (v.setWidth 64) 0#1) where
  ill_follows_cmd := by simp [illOf, legalWord_of_command h]
  illegal_res_zero hill := by simp at hill
  w32_high_half_zero hw := by
    have width32 : i.width = 32 := by
      obtain ⟨-, hwidth, -⟩ := fields_of_decode h
      rw [withOutputs_cmd, hwidth] at hw
      simp [Instr.width, hw]
    ext k hk
    have past : v.getLsbD (32 + k) = false := BitVec.getLsbD_of_ge _ _ (by omega)
    simp [past]

/-- The report of an illegal word fits that word: ILL = 1 and RES = 0 (R221). -/
theorem outputsFit_of_illegal {s : State} {e : DecodeError} (h : decode s.cmd = .illegal e) :
    OutputsFit (s.withOutputs 0#64 1#1) where
  ill_follows_cmd := by simp [illOf, legalWord_of_illegal h]
  illegal_res_zero _ := rfl
  w32_high_half_zero _ := by simp

/-- The outputs a step leaves fit the inputs, whatever stood on them before (R74, R221, R222). -/
theorem outputsFit_of_step {s t : State} (hstep : step s = .next t) : OutputsFit t := by
  cases h : decode s.cmd with
  | command i =>
    obtain ⟨v, hv⟩ := exec_eq_writeResult i s
    rw [step_of_command h, hv] at hstep
    exact writeResult_eq_next hstep ▸ outputsFit_of_command h v
  | illegal e =>
    rw [step_of_illegal h, reportIllegal_next] at hstep
    exact Host.Outcome.next.inj hstep ▸ outputsFit_of_illegal h

/-- Everything a step leaves unchanged: it writes RES and ILL only (R33, R54). -/
theorem eq_withOutputs_of_step {s t : State} (hstep : step s = .next t) :
    t = s.withOutputs t.res t.ill := by
  obtain ⟨r, b, h⟩ := step_eq_next s
  cases Host.Outcome.next.inj (hstep.symm.trans h)
  rfl

/-- No step writes a ROM (R33). -/
theorem romsAsBuilt_of_step {s t : State} (hroms : RomsAsBuilt s) (hstep : step s = .next t) :
    RomsAsBuilt t :=
  eq_withOutputs_of_step hstep ▸ hroms

/-- Settles O34: a step writes RES and ILL only, and what it writes fits the command word. -/
theorem stepKeepsSafe : Obligations.StepKeepsSafe := by
  unfold Obligations.StepKeepsSafe
  intro s t hsafe hstep
  exact ⟨romsAsBuilt_of_step hsafe.roms hstep, outputsFit_of_step hstep⟩

/-! ### The reset state -/

/-- The outputs chosen for reset are those the reset inputs evaluate to (log entries 3 and 4). -/
theorem step_reset : step State.reset = .next State.reset := rfl

/-- Settles O33: the ROMs are built with their contents, and the reset state is its own
evaluation. -/
theorem resetStateIsSafe : Obligations.ResetStateIsSafe := by
  unfold Obligations.ResetStateIsSafe
  exact ⟨⟨rfl, rfl⟩, outputsFit_of_step step_reset⟩

/-! ### The ROM contents -/

/-- Settles O19: both ROMs are built with their contents, which are the lists of R30 and R31. -/
theorem romContentsAtReset : Obligations.RomContentsAtReset := by
  unfold Obligations.RomContentsAtReset
  exact ⟨rfl, rfl⟩

/-- A hash that a table inverts is perfect. -/
theorem eq_of_hash_eq {α : Type} {rom : List α} {hash : Fin 32 → Nat} {value : Fin 32 → α}
    (hvalue : Function.Injective value) (hinv : ∀ k, rom[hash k]? = some (value k)) {j k : Fin 32}
    (h : hash j = hash k) : j = k :=
  hvalue (Option.some.inj (by rw [← hinv j, ← hinv k, h]))

/-- A bit position is read back from a ROM entry wide enough to hold it. -/
theorem position_injective {w : Nat} (hw : 5 ≤ w) :
    Function.Injective fun k : Fin 32 => BitVec.ofNat w k := by
  intro j k h
  have fits : 2 ^ 5 ≤ 2 ^ w := Nat.pow_le_pow_right (by decide) hw
  have hmod : j.val % 2 ^ w = k.val % 2 ^ w := by simpa using congrArg BitVec.toNat h
  rw [Nat.mod_eq_of_lt (by omega), Nat.mod_eq_of_lt (by omega)] at hmod
  exact Fin.ext hmod

/-- ROM_MOD37 holds k at 2^k mod 37 (R30, R32). -/
theorem romMod37_inverts_hash (k : Fin 32) :
    State.reset.romMod37.toList[2 ^ k.val % 37]? = some (BitVec.ofNat 6 k) := by
  revert k
  decide

/-- ROM_DB holds k at the De Bruijn index of ones(k+1) (R31, R32). -/
theorem romDb_inverts_hash (k : Fin 32) :
    State.reset.romDb.toList[((ones 32 (k + 1) * 0x07C4ACDD#32) >>> 27).toNat]? =
      some (BitVec.ofNat 5 k) := by
  revert k
  decide

/-- 37 is an odd prime, so no power of two is a multiple of it. -/
theorem two_pow_mod_37_ne_zero (k : Nat) : 2 ^ k % 37 ≠ 0 := fun h =>
  absurd ((show Nat.Prime 37 by norm_num).dvd_of_dvd_pow (Nat.dvd_of_mod_eq_zero h)) (by decide)

/-- Settles O20: each table inverts its hash, and a hash that a table inverts is perfect. -/
theorem romHashesArePerfect : Obligations.RomHashesArePerfect := by
  unfold Obligations.RomHashesArePerfect
  refine ⟨fun j k h => ?_, fun k => ⟨two_pow_mod_37_ne_zero k, romMod37_inverts_hash k⟩, rfl,
    fun j k h => ?_, romDb_inverts_hash⟩
  · exact eq_of_hash_eq (position_injective (by decide)) romMod37_inverts_hash h
  · exact eq_of_hash_eq (position_injective (by decide)) romDb_inverts_hash
      (congrArg BitVec.toNat h)

end Machine

end Sys2Proof
end

section
/-! PROOFS of the statements of spec/20_memory.md. An evaluation leaves RES and ILL behind and nothing
else, and the next one overwrites them without reading them; so neither an earlier evaluation nor one
on another instance changes a result. -/

namespace Sys2Proof.Machine

/-! ### One evaluation -/

/-- An evaluation always answers (R13, R220). -/
theorem evaluate_eq_next (x : Inputs) (s : State) : ∃ t : State, evaluate x s = .next t := by
  obtain ⟨r, b, h⟩ := step_eq_next (s.present x)
  exact ⟨_, h⟩

/-- Presenting inputs writes no ROM (R21, R33). -/
theorem romsAsBuilt_present {s : State} (hroms : RomsAsBuilt s) (x : Inputs) :
    RomsAsBuilt (s.present x) := hroms

/-- An evaluation writes no ROM (R33). -/
theorem romsAsBuilt_of_evaluate {x : Inputs} {s t : State} (hroms : RomsAsBuilt s)
    (h : evaluate x s = .next t) : RomsAsBuilt t :=
  romsAsBuilt_of_step (romsAsBuilt_present hroms x) h

/-- Any block as built gives `eval` of the inputs presented to it (R13). -/
theorem outputsOf_evaluate_of_romsAsBuilt {s : State} (hroms : RomsAsBuilt s) (x : Inputs) :
    outputsOf (evaluate x s) = eval x := by
  rw [evaluate, outputsOf_step_of_romsAsBuilt (romsAsBuilt_present hroms x), present_inputs]

/-- Settles O31: the two states differ in RES and ILL only, which no meaning reads. -/
theorem evaluationIsIdempotent : Obligations.EvaluationIsIdempotent := by
  unfold Obligations.EvaluationIsIdempotent
  intro s t hstep
  calc step t = step (s.withOutputs t.res t.ill) := congrArg step (eq_withOutputs_of_step hstep)
    _ = step s := step_withOutputs s t.res t.ill
    _ = .next t := hstep

/-! ### A sequence of evaluations -/

theorem evaluateAll_nil (s : State) : evaluateAll [] s = .next s := rfl

/-- The later evaluations of a sequence start from the state that the first one leaves. -/
theorem evaluateAll_cons_of_next {x : Inputs} {s t : State} (h : evaluate x s = .next t)
    (xs : List Inputs) : evaluateAll (x :: xs) s = evaluateAll xs t := by
  simp only [evaluateAll, h]

/-- A sequence of evaluations always answers, and it leaves a block as built as it was built (R33,
R58). -/
theorem evaluateAll_of_romsAsBuilt (xs : List Inputs) {s : State} (hroms : RomsAsBuilt s) :
    ∃ t : State, evaluateAll xs s = .next t ∧ RomsAsBuilt t := by
  induction xs generalizing s with
  | nil => exact ⟨s, evaluateAll_nil s, hroms⟩
  | cons x xs ih =>
    obtain ⟨t, ht⟩ := evaluate_eq_next x s
    rw [evaluateAll_cons_of_next ht]
    exact ih (romsAsBuilt_of_evaluate hroms ht)

/-- Settles O32: the earlier evaluations leave a block as built, and any such block gives `eval`. -/
theorem resultIndependentOfHistory : Obligations.ResultIndependentOfHistory := by
  unfold Obligations.ResultIndependentOfHistory
  intro before x s hroms
  obtain ⟨t, hbefore, ht⟩ := evaluateAll_of_romsAsBuilt before hroms
  exact ⟨t, hbefore, outputsOf_evaluate_of_romsAsBuilt ht x⟩

/-! ### Several instances and several hosts -/

/-- With no instance `k`, nothing is evaluated. -/
theorem evaluateAt_of_none {k : Nat} {blocks : List State} (hk : blocks[k]? = none) (x : Inputs) :
    evaluateAt k x blocks = .next blocks := by
  simp only [evaluateAt, hk]

/-- An evaluation on instance `k` replaces that instance by what it leads to alone (R58). -/
theorem evaluateAt_of_some {k : Nat} {x : Inputs} {blocks : List State} {s t : State}
    (hk : blocks[k]? = some s) (ht : evaluate x s = .next t) :
    evaluateAt k x blocks = .next (blocks.set k t) := by
  simp only [evaluateAt, hk, ht]

/-- Settles O56: the list is replaced at index k only, by what instance k leads to alone. -/
theorem instancesAreIndependent : Obligations.InstancesAreIndependent := by
  unfold Obligations.InstancesAreIndependent
  intro k x blocks
  cases hk : blocks[k]? with
  | none => exact ⟨blocks, evaluateAt_of_none hk x, rfl, fun _ _ => rfl, fun _ h => nomatch h⟩
  | some s =>
    obtain ⟨t, ht⟩ := evaluate_eq_next x s
    obtain ⟨hlt, -⟩ := List.getElem?_eq_some_iff.1 hk
    refine ⟨blocks.set k t, evaluateAt_of_some hk ht, List.length_set,
      fun j hj => List.getElem?_set_ne hj.symm, fun s' hs' => ?_⟩
    cases hs'
    exact ⟨t, ht, List.getElem?_set_self hlt⟩

/-- Presenting inputs leaves the outputs as last sampled (log entry 2). -/
@[simp] theorem present_outputs (s : State) (x : Inputs) : (s.present x).outputs = s.outputs := rfl

/-- Settles O55: `drive` has one case for no request, one for one request and one for more. -/
theorem portsAreDrivenByOneHost : Obligations.PortsAreDrivenByOneHost := by
  unfold Obligations.PortsAreDrivenByOneHost
  intro x y more s
  exact ⟨rfl, rfl, present_inputs s x, present_outputs s x, present_romMod37 s x,
    present_romDb s x, rfl⟩

end Sys2Proof.Machine
end

section
/-! PROOFS of the statements of spec/30_encoding.md, the command word (R70 to R72, R78 to R80): a word
decodes to a command exactly when it is that command's word, and otherwise to one of two illegal
classes. -/

namespace Sys2Proof

/-! ### Decoding and encoding -/

/-- The word of a command decodes to it (R80). -/
@[simp] theorem decode_encode (i : Instr) : decode (encode i) = .command i := by
  cases i <;> rfl

/-- The commands and their words correspond one to one (R79, R80). -/
theorem decode_eq_command_iff {cmd : Command} {i : Instr} :
    decode cmd = .command i ↔ encode i = cmd :=
  ⟨encode_of_decode, fun h => h ▸ decode_encode i⟩

/-- No two commands share a word (R80). -/
theorem encode_injective : Function.Injective encode := fun i j h => by
  simpa using (decode_encode i).symm.trans (decode_eq_command_iff.2 h.symm)

/-- Settles O22: each word of the table is the word of the command the table names. -/
theorem commandTableDecodes : Obligations.CommandTableDecodes := by
  unfold Obligations.CommandTableDecodes
  and_intros <;> exact decode_eq_command_iff.2 rfl

/-- An 8-bit word is read back whole (R70). -/
theorem ofNat_toNat_mod (cmd : Command) : BitVec.ofNat 8 (cmd.toNat % 2 ^ 8) = cmd := by
  rw [Nat.mod_eq_of_lt cmd.isLt, BitVec.ofNat_toNat, BitVec.setWidth_eq]

open Machine in
/-- Settles O24: `encode` inverts `decode`, and a word of 8 bits is fetched whole. -/
theorem decodeAndEncodeAgree : Obligations.DecodeAndEncodeAgree := by
  unfold Obligations.DecodeAndEncodeAgree
  refine ⟨fun _ _ => decode_eq_command_iff, fun i => ?_, fun i s => ?_⟩
  · simp only [decodeTableWord, ofNat_toNat_mod, decode_encode, Nat.le_refl, if_true]
  · have hfetch : s.withFetchWord 8 (encode i).toNat = { s with cmd := encode i } := by
      rw [State.withFetchWord, ofNat_toNat_mod]
    rw [hfetch]
    exact step_of_command (decode_encode i)

/-! ### Legal and illegal words -/

/-- A word is legal exactly when it is the word of a command (R78, R79). -/
theorem legalWord_iff_exists_decode {cmd : Command} :
    legalWord cmd = true ↔ ∃ i, decode cmd = .command i := by
  constructor
  · intro hlegal
    cases h : decode cmd with
    | command i => exact ⟨i, rfl⟩
    | illegal e => simp [legalWord_of_illegal h] at hlegal
  · rintro ⟨i, h⟩
    exact legalWord_of_command h

/-- The two checks of R78. -/
theorem legalWord_iff_fields {cmd : Command} :
    legalWord cmd = true ↔ cmd.extractLsb' 6 2 = 0#2 ∧ (cmd.extractLsb' 0 5).toNat ≤ 0x11 := by
  simp [legalWord, reservedBitsClear, operationAssigned, BitVec.le_def]

/-- Why a word is illegal: RSV is not clear, or it is and OP is not assigned (R78). -/
theorem fields_of_decode_illegal {cmd : Command} {e : DecodeError} (h : decode cmd = .illegal e) :
    (e = .reservedBits ∧ fieldRsv cmd ≠ 0#2) ∨
      (e = .reservedOperation ∧ fieldRsv cmd = 0#2 ∧ 0x11 < (fieldOp cmd).toNat) := by
  unfold decode at h
  split at h
  · rename_i hrsv
    cases h
    exact .inl ⟨rfl, hrsv⟩
  · rename_i hrsv
    split at h
    case h_1 => cases h
    case h_2 hop =>
      cases h
      exact .inr ⟨rfl, not_not.1 hrsv, lt_of_operation_none hop⟩

/-- The ranges of the two illegal classes (R78). -/
theorem toNat_of_decode_illegal {cmd : Command} {e : DecodeError} (h : decode cmd = .illegal e) :
    (e = .reservedBits ∧ 0x40 ≤ cmd.toNat) ∨
      (e = .reservedOperation ∧
        (0x12 ≤ cmd.toNat ∧ cmd.toNat ≤ 0x1F ∨ 0x32 ≤ cmd.toNat ∧ cmd.toNat ≤ 0x3F)) := by
  have hcmd : cmd.toNat < 256 := cmd.isLt
  have hrsv : (fieldRsv cmd).toNat = cmd.toNat / 64 % 4 := by
    simp [fieldRsv, BitVec.extractLsb'_toNat, Nat.shiftRight_eq_div_pow]
  have hop : (fieldOp cmd).toNat = cmd.toNat % 32 := by
    simp [fieldOp, BitVec.extractLsb'_toNat]
  rcases fields_of_decode_illegal h with ⟨rfl, hbits⟩ | ⟨rfl, hbits, hlt⟩
  · rw [← BitVec.toNat_ne_iff_ne, hrsv, BitVec.toNat_ofNat] at hbits
    exact .inl ⟨rfl, by omega⟩
  · rw [← BitVec.toNat_inj, hrsv, BitVec.toNat_ofNat] at hbits
    exact .inr ⟨rfl, by omega⟩

/-- Every command is in the list of R80. -/
theorem mem_allInstrs (i : Instr) : i ∈ Machine.allInstrs := by
  cases i <;> decide

/-- The legal words are the words of the 36 commands (R80). -/
theorem card_legalWord :
    (Finset.univ.filter fun cmd : Fin 256 => legalWord (BitVec.ofFin cmd) = true).card = 36 := by
  have himage : (Finset.univ.filter fun cmd : Fin 256 => legalWord (BitVec.ofFin cmd) = true) =
      Machine.allInstrs.toFinset.image fun i => (encode i).toFin := by
    ext cmd
    simp only [Finset.mem_filter, Finset.mem_univ, true_and, legalWord_iff_exists_decode,
      decode_eq_command_iff, Finset.mem_image, List.mem_toFinset, mem_allInstrs]
    exact exists_congr fun i => ⟨fun h => by rw [h], fun h => by rw [← h]⟩
  rw [himage, Finset.card_image_of_injective]
  · decide
  · exact fun i j h => encode_injective (BitVec.eq_of_toFin_eq h)

open Machine in
/-- Settles O23: the legal words are those of the commands, and the decoder names one of two classes
for every other word. -/
theorem legalWordsAreThirtySix : Obligations.LegalWordsAreThirtySix := by
  unfold Obligations.LegalWordsAreThirtySix
  refine ⟨fun cmd => legalWord_iff_exists_decode.symm.trans legalWord_iff_fields, fun cmd => ?_,
    card_legalWord, fun cmd => legalWord_iff_exists_decode, fun s hlegal => ?_⟩
  · cases h : decode cmd with
    | command i => exact .inl ⟨i, rfl⟩
    | illegal e =>
      rcases toNat_of_decode_illegal h with ⟨rfl, hrange⟩ | ⟨rfl, hrange⟩
      · exact .inr (.inl ⟨rfl, hrange⟩)
      · exact .inr (.inr ⟨rfl, hrange⟩)
  · cases h : decode s.cmd with
    | command i => simp [legalWord_of_command h] at hlegal
    | illegal e => exact step_of_illegal h

end Sys2Proof
end

section
/-! PROOFS of the statements of spec/30_encoding.md, what a command reads and writes (R74, R75, R77):
every meaning is a function of the parts of the ports that R75 lists, written to RES at its width. -/

namespace Sys2Proof.Machine

/-- Settles O28: every meaning ends by writing a result of its own width. -/
theorem resultHasCommandWidth : Obligations.ResultHasCommandWidth := by
  unfold Obligations.ResultHasCommandWidth
  intro i s
  obtain ⟨v, hv⟩ := exec_eq_writeResult i s
  exact ⟨v, hv.trans (writeResult_next v s)⟩

/-! ### What a command reads -/

/-- A W-bit value is read back from its zero-extension. -/
theorem eq_of_setWidth_eq {w : Nat} (hw : w ≤ 64) {u v : BitVec w}
    (h : u.setWidth 64 = v.setWidth 64) : u = v := by
  simpa [BitVec.setWidth_setWidth_of_le _ hw] using congrArg (BitVec.setWidth w) h

/-- Meanings that write equal results answer with equal outputs. -/
theorem outputsOf_writeResult_congr {w : Nat} {u v : BitVec w} (h : u = v) (s t : State) :
    outputsOf (writeResult u s) = outputsOf (writeResult v t) := by
  subst h
  rfl

/-- No command is wider than a port (R72). -/
theorem width_le (i : Instr) : i.width ≤ 64 := by
  unfold Instr.width
  split <;> decide

/-- A command's outputs depend on the ports it reads, a data port on bits W-1..0 only (R75, R77). -/
theorem outputsOf_exec_congr (i : Instr) (s : State) {x y : Inputs}
    (h : ∀ p ∈ reads i, p.view i.width x = p.view i.width y) :
    outputsOf (exec i (s.present x)) = outputsOf (exec i (s.present y)) := by
  have hA (hp : .A ∈ reads i) : x.a.setWidth i.width = y.a.setWidth i.width :=
    eq_of_setWidth_eq (width_le i) (h .A hp)
  have hB (hp : .B ∈ reads i) : x.b.setWidth i.width = y.b.setWidth i.width :=
    eq_of_setWidth_eq (width_le i) (h .B hp)
  have hC (hp : .C ∈ reads i) : x.c.setWidth i.width = y.c.setWidth i.width :=
    eq_of_setWidth_eq (width_le i) (h .C hp)
  have hK0 (hp : .K0 ∈ reads i) : x.k0.toInt = y.k0.toInt :=
    congrArg BitVec.toInt (eq_of_setWidth_eq (by decide) (h .K0 hp))
  have hK1 (hp : .K1 ∈ reads i) : x.k1.toInt = y.k1.toInt :=
    congrArg BitVec.toInt (eq_of_setWidth_eq (by decide) (h .K1 hp))
  have hK2 (hp : .K2 ∈ reads i) : x.k2.toInt = y.k2.toInt :=
    congrArg BitVec.toInt (eq_of_setWidth_eq (by decide) (h .K2 hp))
  cases i with
  | countW32 | countW64 | parityW32 | parityW64 | scanW32 | scanW64 | scanreverseW32
  | scanreverseW64 | reverseW32 | reverseW64 =>
    exact outputsOf_writeResult_congr (congrArg _ (hA (by decide))) _ _
  | getmaskedW32 | getmaskedW64 | togglemaskedW32 | togglemaskedW64 | interleaveW32
  | interleaveW64 =>
    exact outputsOf_writeResult_congr (congrArg₂ _ (hA (by decide)) (hB (by decide))) _ _
  | mergeW32 | mergeW64 =>
    exact outputsOf_writeResult_congr
      (congr (congrArg₂ _ (hA (by decide)) (hB (by decide))) (hC (by decide))) _ _
  | getW32 | getW64 | toggleW32 | toggleW64 | paritynW32 | paritynW64 | rotateW32 | rotateW64
  | signextendW32 | signextendW64 =>
    exact outputsOf_writeResult_congr (congrArg₂ _ (hA (by decide)) (hK0 (by decide))) _ _
  | setmaskedW32 | setmaskedW64 =>
    exact outputsOf_writeResult_congr
      (congr (congrArg₂ _ (hA (by decide)) (hB (by decide))) (hK0 (by decide))) _ _
  | setW32 | setW64 | swapW32 | swapW64 =>
    exact outputsOf_writeResult_congr
      (congr (congrArg₂ _ (hA (by decide)) (hK0 (by decide))) (hK1 (by decide))) _ _
  | swapfieldW32 | swapfieldW64 =>
    exact outputsOf_writeResult_congr
      (congr (congr (congrArg₂ _ (hA (by decide)) (hK0 (by decide))) (hK1 (by decide)))
        (hK2 (by decide))) _ _

/-- The word of a command runs that command on the inputs presented with it (R13, R80). -/
theorem evaluate_encode (i : Instr) (x : Inputs) (s : State) :
    evaluate { x with cmd := encode i } s = exec i (s.present { x with cmd := encode i }) :=
  step_of_command (decode_encode i)

/-- An operand port shows nothing of CMD. -/
theorem view_with_cmd (w : Nat) (p : Port) (x : Inputs) (cmd : Command) :
    p.view w { x with cmd := cmd } = p.view w x := by
  cases p <;> rfl

/-- Settles O29: the outputs of a command are a function of what it reads. -/
theorem unreadPortsHaveNoEffect : Obligations.UnreadPortsHaveNoEffect := by
  unfold Obligations.UnreadPortsHaveNoEffect
  intro i x y h
  rw [runOn, eval, evaluate_encode, runOn, eval, evaluate_encode]
  exact outputsOf_exec_congr i State.reset fun p hp =>
    (view_with_cmd _ p x _).trans ((h p hp).trans (view_with_cmd _ p y _).symm)

end Sys2Proof.Machine
end

section
/-! PROOFS of the statements of spec/30_encoding.md, the text of a line (R81): what trimming, splitting
and reading a numeral give on the pieces that `listing` writes, and so what assembling a listing gives. -/

namespace Sys2Proof.Machine

/-! ### Trimming and splitting -/

/-- What neither begins nor ends in white space is left as it is. -/
theorem trim_of_ends {cs : List Char} (hhead : ∀ c ∈ cs.head?, isBlank c = false)
    (hlast : ∀ c ∈ cs.getLast?, isBlank c = false) : trim cs = cs := by
  have kept : ∀ l : List Char, (∀ c ∈ l.head?, isBlank c = false) → l.dropWhile isBlank = l := by
    intro l hl
    cases l with
    | nil => rfl
    | cons c l => exact List.dropWhile_cons_of_neg (by simp [hl c rfl])
  rw [trim, kept cs hhead, kept _ (by rwa [List.head?_reverse]), List.reverse_reverse]

/-- A word is left as it is. -/
theorem trim_word {cs : List Char} (h : ∀ c ∈ cs, isBlank c = false) : trim cs = cs :=
  trim_of_ends (fun c hc => h c (List.mem_of_mem_head? hc))
    fun c hc => h c (List.mem_of_mem_getLast? hc)

/-- White space in front is removed. -/
theorem trim_space_cons (cs : List Char) : trim (' ' :: cs) = trim cs := by
  rw [trim, List.dropWhile_cons_of_pos rfl, trim]

/-- Only white space is trimmed away to nothing. -/
theorem trim_ne_nil {cs : List Char} {c : Char} (hmem : c ∈ cs) (hc : isBlank c = false) :
    trim cs ≠ [] := by
  intro h
  rw [trim, List.reverse_eq_nil_iff, List.dropWhile_eq_nil_iff] at h
  rw [← List.takeWhile_append_dropWhile (p := isBlank) (l := cs), List.mem_append] at hmem
  have blank : isBlank c = true := hmem.elim List.mem_takeWhile_imp fun hm =>
    h c (List.mem_reverse.2 hm)
  simp [hc] at blank

section split

variable {sep : Char} {l : List Char} (h : sep ∉ l) (r : List Char)

include h

/-- Text without the separator is one piece. -/
theorem splitAll_of_not_mem : splitAll sep l = [l] := by
  induction l with
  | nil => rfl
  | cons c l ih =>
    rw [List.mem_cons, not_or] at h
    obtain ⟨hc, hl⟩ := h
    simp [splitAll, Ne.symm hc, ih hl]

/-- The text before a separator is the first piece. -/
theorem splitAll_append_cons : splitAll sep (l ++ sep :: r) = l :: splitAll sep r := by
  induction l with
  | nil => simp [splitAll]
  | cons c l ih =>
    rw [List.mem_cons, not_or] at h
    obtain ⟨hc, hl⟩ := h
    simp [splitAll, Ne.symm hc, ih hl]

/-- The text is split at its first separator. -/
theorem splitFirst_append_cons : splitFirst sep (l ++ sep :: r) = some (l, r) := by
  induction l with
  | nil => simp [splitFirst]
  | cons c l ih =>
    rw [List.mem_cons, not_or] at h
    obtain ⟨hc, hl⟩ := h
    simp [splitFirst, Ne.symm hc, ih hl]

end split

/-! ### Hexadecimal numerals -/

/-- A digit reads back as its value and is neither white space nor a comma. -/
theorem hexDigit_spec : ∀ d < 16, digitValue (hexDigit d) = some d ∧
    isBlank (hexDigit d) = false ∧ hexDigit d ≠ ',' := by decide

/-- Digits are read one after another. -/
theorem digitsFrom_append (base acc : Nat) (cs cs' : List Char) :
    digitsFrom base acc (cs ++ cs') =
      (digitsFrom base acc cs).bind fun v => digitsFrom base v cs' := by
  induction cs generalizing acc with
  | nil => rfl
  | cons c cs ih =>
    simp only [List.cons_append, digitsFrom]
    cases digitValue c with
    | none => rfl
    | some d => by_cases h : d < base <;> simp [h, ih]

/-- The low n hexadecimal digits of a value read back as the value modulo 16^n. -/
theorem digitsFrom_hexDigits (n v : Nat) :
    digitsFrom 16 0 (hexDigits n v) = some (v % 16 ^ n) := by
  induction n generalizing v with
  | zero => simp [hexDigits, digitsFrom, Nat.mod_one]
  | succ n ih =>
    have hlt : v % 16 < 16 := Nat.mod_lt _ (by decide)
    obtain ⟨hdigit, -, -⟩ := hexDigit_spec (v % 16) hlt
    have hvalue : v / 16 % 16 ^ n * 16 + v % 16 = v % 16 ^ (n + 1) := by
      rw [pow_succ', Nat.mod_mul]
      omega
    simp [hexDigits, digitsFrom_append, ih, digitsFrom, hdigit, hlt, hvalue]

/-- Digits hold neither white space nor a comma. -/
theorem plain_of_mem_hexDigits {n v : Nat} {c : Char} (h : c ∈ hexDigits n v) :
    isBlank c = false ∧ c ≠ ',' := by
  induction n generalizing v with
  | zero => simp [hexDigits] at h
  | succ n ih =>
    rw [hexDigits, List.mem_append, List.mem_singleton] at h
    rcases h with h | rfl
    · exact ih h
    · exact (hexDigit_spec _ (Nat.mod_lt _ (by decide))).2

/-- A `0x` numeral with digits enough for its value reads back as that value (R81). -/
theorem readOperand_hexDigits {n v : Nat} (hn : n ≠ 0) (hv : v < 16 ^ n) :
    readOperand ('0' :: 'x' :: hexDigits n v) = some (.num v) := by
  have hne : hexDigits n v ≠ [] := by
    obtain ⟨n, rfl⟩ := Nat.exists_eq_succ_of_ne_zero hn
    simp [hexDigits]
  simp [readOperand, readNumeral, readNat, hne, digitsFrom_hexDigits, Nat.mod_eq_of_lt hv]

/-! ### One `PORT=value` pair -/

/-- The pair that `listPort` writes: a port and its value as a numeral. -/
def listedPair (x : Inputs) (p : Port) : Port × Operand := (p, .num (p.read x).toNat)

/-- A port name holds neither white space nor a separator. -/
theorem plain_of_mem_name {p : Port} {c : Char} (h : c ∈ p.name.toList) :
    isBlank c = false ∧ c ≠ ',' ∧ c ≠ '=' := by
  have plain : p.name.toList.all (fun c => !isBlank c && c != ',' && c != '=') = true := by
    cases p <;> rfl
  simpa [and_assoc] using List.all_eq_true.1 plain c h

/-- A port is found by its name (R20). -/
theorem find_port (p : Port) :
    allPorts.find? (fun q => q.name.toList == p.name.toList) = some p := by
  cases p <;> rfl

/-- A port's value fits the port (R20). -/
theorem toNat_read_lt (p : Port) (x : Inputs) : (p.read x).toNat < 2 ^ p.width := by
  have scalar (k : Scalar) : (k.setWidth 64).toNat < 2 ^ 32 := by
    rw [BitVec.toNat_setWidth_of_le (by decide)]
    exact k.isLt
  cases p
  exacts [x.a.isLt, x.b.isLt, x.c.isLt, scalar x.k0, scalar x.k1, scalar x.k2]

/-- The numeral of a port's value fits the port (R81). -/
theorem operandFits_listedPair (p : Port) (x : Inputs) : operandFits (listedPair x p) = true := by
  have hlt := toNat_read_lt p x
  cases p <;>
    simp only [Port.width, listedPair, operandFits, numeralFits, decide_eq_true_eq] at hlt ⊢ <;>
    omega

/-- The numeral of a port's value, with its `0x`, holds neither white space nor a comma. -/
theorem plain_of_mem_value {p : Port} {x : Inputs} {c : Char}
    (h : c ∈ '0' :: 'x' :: hexDigits (p.width / 4) (p.read x).toNat) :
    isBlank c = false ∧ c ≠ ',' := by
  rw [List.mem_cons, List.mem_cons] at h
  rcases h with rfl | rfl | h
  · decide
  · decide
  · exact plain_of_mem_hexDigits h

/-- A listed pair is a port name, a separator and a hexadecimal numeral (R81). -/
theorem listPort_eq (p : Port) (x : Inputs) : listPort p x =
    p.name.toList ++ '=' :: '0' :: 'x' :: hexDigits (p.width / 4) (p.read x).toNat := by
  simp [listPort]

/-- A listed pair holds neither white space nor a comma. -/
theorem plain_of_mem_listPort {p : Port} {x : Inputs} {c : Char} (h : c ∈ listPort p x) :
    isBlank c = false ∧ c ≠ ',' := by
  rw [listPort_eq, List.mem_append, List.mem_cons] at h
  rcases h with h | rfl | h
  · obtain ⟨hblank, hcomma, -⟩ := plain_of_mem_name h
    exact ⟨hblank, hcomma⟩
  · decide
  · exact plain_of_mem_value h

/-- A listed pair, set off by a blank, reads back (R81). -/
theorem readPort_listPort (p : Port) (x : Inputs) :
    readPort (' ' :: listPort p x) = some (listedPair x p) := by
  have hsep : '=' ∉ ' ' :: p.name.toList := by
    simp only [List.mem_cons, not_or]
    exact ⟨by decide, fun h => (plain_of_mem_name h).2.2 rfl⟩
  have hname : trim (' ' :: p.name.toList) = p.name.toList := by
    rw [trim_space_cons, trim_word fun c hc => (plain_of_mem_name hc).1]
  have hvalue : readOperand (trim ('0' :: 'x' :: hexDigits (p.width / 4) (p.read x).toNat)) =
      some (.num (p.read x).toNat) := by
    rw [trim_word fun c hc => (plain_of_mem_value hc).1]
    have hlt := toNat_read_lt p x
    cases p <;> exact readOperand_hexDigits (by decide) hlt
  have hfits := operandFits_listedPair p x
  rw [listedPair] at hfits ⊢
  rw [readPort, listPort_eq, ← List.cons_append, splitFirst_append_cons hsep]
  simp [hname, find_port, hvalue, hfits]

/-! ### The pairs of a line -/

/-- A nonempty list of pairs is written as some text. -/
theorem listPorts_ne_nil (x : Inputs) {ps : List Port} (hps : ps ≠ []) : listPorts x ps ≠ [] := by
  obtain ⟨p, rest, rfl⟩ := List.exists_cons_of_ne_nil hps
  cases rest <;> simp [listPorts, listPort]

/-- The last character of a listed line's pairs is no white space. -/
theorem listPorts_getLast (x : Inputs) (ps : List Port) :
    ∀ c ∈ (listPorts x ps).getLast?, isBlank c = false := by
  induction ps with
  | nil => simp [listPorts]
  | cons p ps ih =>
    cases ps with
    | nil => exact fun c hc => (plain_of_mem_listPort (List.mem_of_mem_getLast? hc)).1
    | cons q rest =>
      rwa [listPorts,
        List.getLast?_append_of_ne_nil _ (listPorts_ne_nil x (List.cons_ne_nil q rest))]

/-- A comma separates each pair from the blank in front of the next. -/
theorem splitAll_listPorts (x : Inputs) (p : Port) (ps : List Port) :
    splitAll ',' (' ' :: listPorts x (p :: ps)) =
      (p :: ps).map fun q => ' ' :: listPort q x := by
  have hsep (q : Port) : ',' ∉ ' ' :: listPort q x := by
    simp only [List.mem_cons, not_or]
    exact ⟨by decide, fun h => (plain_of_mem_listPort h).2 rfl⟩
  induction ps generalizing p with
  | nil => exact splitAll_of_not_mem (hsep p)
  | cons q rest ih =>
    have hline : ' ' :: listPorts x (p :: q :: rest) =
        (' ' :: listPort p x) ++ ',' :: (' ' :: listPorts x (q :: rest)) := by simp [listPorts]
    rw [hline, splitAll_append_cons (hsep p), ih, List.map_cons, List.map_cons, List.map_cons]

/-- The listed pairs read back (R81). -/
theorem readPorts_listPorts (x : Inputs) {ps : List Port} (hps : ps ≠ []) :
    readPorts (' ' :: listPorts x ps) = some (ps.map (listedPair x)) := by
  obtain ⟨p, rest, rfl⟩ := List.exists_cons_of_ne_nil hps
  have hmem : '=' ∈ ' ' :: listPorts x (p :: rest) := by
    cases rest <;> simp [listPorts, listPort]
  have hread : (readPort ∘ fun q => ' ' :: listPort q x) = fun q => pure (listedPair x q) :=
    funext fun q => readPort_listPort q x
  rw [readPorts, if_neg (trim_ne_nil hmem (by decide)), splitAll_listPorts, List.mapM_map, hread]
  exact List.mapM_pure

/-! ### The line of a command -/

/-- A mnemonic is a word in capitals (R71, R72). -/
theorem mnemonic_char {i : Instr} {c : Char} (h : c ∈ (mnemonic i).toList) :
    isBlank c = false ∧ c.toUpper = c := by
  have capitals : (mnemonic i).toList.all (fun c => !isBlank c && c.toUpper == c) = true := by
    cases i <;> rfl
  simpa using List.all_eq_true.1 capitals c h

/-- A command is found by its mnemonic (R71, R72). -/
theorem find_mnemonic (i : Instr) :
    allInstrs.find? (fun j => (mnemonic j).toList == (mnemonic i).toList) = some i := by
  cases i <;> rfl

/-- Every command reads a port (R75). -/
theorem reads_ne_nil (i : Instr) : reads i ≠ [] := by
  cases i <;> exact List.cons_ne_nil _ _

/-- A listed line is a mnemonic, a blank and the pairs (R81). -/
theorem listing_eq (i : Instr) (x : Inputs) :
    listing i x = (mnemonic i).toList ++ ' ' :: listPorts x (reads i) := by
  simp [listing]

/-- A listed line neither begins nor ends in white space. -/
theorem trim_listing (i : Instr) (x : Inputs) : trim (listing i x) = listing i x := by
  have hne : (mnemonic i).toList ≠ [] := by cases i <;> exact List.cons_ne_nil _ _
  refine trim_of_ends (fun c hc => ?_) (fun c hc => ?_)
  · rw [listing_eq, List.head?_append_of_ne_nil _ hne] at hc
    exact (mnemonic_char (List.mem_of_mem_head? hc)).1
  · rw [listing, List.getLast?_append_of_ne_nil _ (listPorts_ne_nil x (reads_ne_nil i))] at hc
    exact listPorts_getLast x (reads i) c hc

/-- The line of a command reads back as the command and its pairs (R81). -/
theorem readCommand_listing (i : Instr) (x : Inputs) :
    readCommand (listing i x) = some (i, (reads i).map (listedPair x)) := by
  have word : ∀ c ∈ (mnemonic i).toList, (!isBlank c) = true := fun c hc => by
    simp [(mnemonic_char hc).1]
  have hhead : ((listing i x).takeWhile fun c => !isBlank c).map Char.toUpper =
      (mnemonic i).toList := by
    rw [listing_eq, List.takeWhile_append_of_pos word, List.takeWhile_cons_of_neg (by decide),
      List.append_nil, List.map_congr_left fun c hc => (mnemonic_char hc).2, List.map_id']
  have hrest : ((listing i x).dropWhile fun c => !isBlank c) = ' ' :: listPorts x (reads i) := by
    rw [listing_eq, List.dropWhile_append_of_pos word, List.dropWhile_cons_of_neg (by decide)]
  have hports : ((reads i).map (listedPair x)).map Prod.fst = reads i := by
    simp [Function.comp_def, listedPair]
  simp only [readCommand, trim_listing, hhead, hrest, readPorts_listPorts x (reads_ne_nil i),
    find_mnemonic, hports, if_true]

/-! ### Driving the listed ports -/

/-- The 64-bit pattern of a port's numeral is the port's value. -/
theorem numerals_listedPairs (x : Inputs) (ps : List Port) :
    numerals (ps.map (listedPair x)) = some (ps.map fun p => (p, p.read x)) := by
  induction ps with
  | nil => rfl
  | cons p ps ih => simp [listedPair, numerals, ih, numeralBits]

/-- Driving a port with a port's own value of `x` puts that value on it. -/
theorem read_drive_self (p : Port) (x y : Inputs) : p.read (p.drive (p.read x) y) = p.read x := by
  cases p <;> simp [Port.read, Port.drive]

/-- Driving a port leaves every other port as it is. -/
theorem read_drive (p q : Port) (v : BitVec 64) (y : Inputs) :
    q.read (p.drive v y) = if q = p then p.read (p.drive v y) else q.read y := by
  cases p <;> cases q <;> rfl

/-- Driving ports with their values of `x` copies these ports from `x` and leaves the others. -/
theorem read_drivePorts (x y : Inputs) (ps : List Port) (q : Port) :
    q.read (drivePorts (ps.map fun p => (p, p.read x)) y) =
      if q ∈ ps then q.read x else q.read y := by
  induction ps generalizing y with
  | nil => rfl
  | cons p ps ih =>
    rw [List.map_cons, drivePorts, ih, read_drive, read_drive_self]
    by_cases hq : q = p <;> simp [hq]

/-- An operand port does not read CMD. -/
theorem read_with_cmd (p : Port) (y : Inputs) (cmd : Command) :
    p.read { y with cmd := cmd } = p.read y := by
  cases p <;> rfl

/-- Settles O51: the listing reads back as the command and the values of the ports it reads, and
driving these leaves every other port as it was. -/
theorem assemblingAListingGivesItBack : Obligations.AssemblingAListingGivesItBack := by
  unfold Obligations.AssemblingAListingGivesItBack
  intro i x y
  refine ⟨{ drivePorts ((reads i).map fun p => (p, p.read x)) y with cmd := encode i }, ?_, rfl,
    fun p hp => ?_, fun p hp => ?_⟩
  · simp only [assemble, readCommand_listing, numerals_listedPairs, Option.map_some]
  · rw [read_with_cmd, read_drivePorts, if_pos hp]
  · rw [read_with_cmd, read_drivePorts, if_neg hp]

end Sys2Proof.Machine
end

section
/-! PROOFS of the statements of spec/30_encoding.md, the pseudo-commands (R82) and the statements of a
host script (R90): one equation of `scriptStep` for each statement. -/

namespace Sys2Proof.Machine

/-! ### Pseudo-commands -/

/-- Settles O50: each expansion is one branch of `Pseudo.expand`, and ROTR's is conditional. -/
theorem pseudoCommandsExpand : Obligations.PseudoCommandsExpand := by
  unfold Obligations.PseudoCommandsExpand
  exact ⟨fun x i => ⟨rfl, rfl, rfl, rfl, rfl, rfl⟩, fun x s => ⟨rfl, rfl⟩⟩

/-! ### One statement of a host script -/

/-! What the host does at each statement (R90), when its names are bound. -/

section scriptStep

variable {h : ScriptState} {k : List Script} {rest : Script}

theorem scriptStep_of_nil (htodo : h.todo = []) : scriptStep h = .ended h := by
  simp only [scriptStep, htodo]

theorem scriptStep_of_done (htodo : h.todo = .done :: k) :
    scriptStep h = .next { h with todo := k } := by
  simp only [scriptStep, htodo]

theorem scriptStep_of_stop (htodo : h.todo = .stop :: k) :
    scriptStep h = .next { h with todo := [] } := by
  simp only [scriptStep, htodo]

theorem scriptStep_of_command {target : String} {i : Instr} {ports : List (Port × Operand)}
    {vs : List (Port × BitVec 64)} (htodo : h.todo = .command target i ports rest :: k)
    (hvs : portValues h.names ports = .ok vs) :
    scriptStep h = runCommand h target i vs (rest :: k) := by
  simp only [scriptStep, htodo, hvs]

theorem scriptStep_of_bind {target : String} {o : Operand} {v : BitVec 64}
    (htodo : h.todo = .bind target o rest :: k) (hv : operandValue h.names o = .ok v) :
    scriptStep h = .next { h with todo := rest :: k, names := bindName target v h.names } := by
  simp only [scriptStep, htodo, hv]

theorem scriptStep_of_ite {c : Condition} {p q : Script} {b : Bool}
    (htodo : h.todo = .ite c p q rest :: k) (hc : c.test h.names = .ok b) :
    scriptStep h = .next { h with todo := (if b then p else q) :: rest :: k } := by
  simp only [scriptStep, htodo, hc]

theorem scriptStep_of_loop {c : Condition} {p : Script} {b : Bool}
    (htodo : h.todo = .loop c p rest :: k) (hc : c.test h.names = .ok b) :
    scriptStep h = .next { h with
      todo := if b then p :: .loop c p rest :: k else rest :: k } := by
  cases b <;> simp only [scriptStep, htodo, hc] <;> rfl

theorem scriptStep_of_out {n : String} {v : BitVec 64} (htodo : h.todo = .out n rest :: k)
    (hv : lookupName n h.names = some v) :
    scriptStep h = .next { h with todo := rest :: k, output := h.output ++ [v] } := by
  simp only [scriptStep, htodo, hv]

end scriptStep

/-- Settles O53: one equation of `scriptStep` for each control statement. -/
theorem scriptControlFlow : Obligations.ScriptControlFlow := by
  unfold Obligations.ScriptControlFlow
  intro h c n p q rest k
  exact ⟨scriptStep_of_nil, scriptStep_of_done, scriptStep_of_stop, scriptStep_of_ite,
    scriptStep_of_ite, scriptStep_of_loop, scriptStep_of_loop, fun _ => scriptStep_of_out⟩

/-- Settles O58: the names change at the target only, and nothing is presented to the block. -/
theorem scriptBindingBindsValue : Obligations.ScriptBindingBindsValue := by
  unfold Obligations.ScriptBindingBindsValue
  intro h target o v rest k htodo hv
  exact ⟨_, scriptStep_of_bind htodo hv, lookupName_bindName_self target v h.names,
    fun n hn => lookupName_bindName_of_ne hn v h.names, rfl, rfl, rfl⟩

/-- Presenting a command writes its result and ILL = 0 (R74, R100). -/
theorem evaluate_encode_eq_next (i : Instr) (x : Inputs) (s : State) :
    ∃ t : State, evaluate { x with cmd := encode i } s = .next t ∧ t.ill = 0#1 := by
  obtain ⟨v, hv⟩ := exec_eq_writeResult i (s.present { x with cmd := encode i })
  exact ⟨_, (evaluate_encode i x s).trans hv, rfl⟩

/-- `runCommand` binds the RES of the state that the block answers with (R90). -/
theorem runCommand_of_next {h : ScriptState} {i : Instr} {vs : List (Port × BitVec 64)} {t : State}
    (ht : evaluate { drivePorts vs h.block.inputs with cmd := encode i } h.block = .next t)
    (target : String) (todo : List Script) : runCommand h target i vs todo =
      .next { h with todo := todo, names := bindName target t.res h.names, block := t } := by
  simp only [runCommand, ht]

/-- Settles O52: a block as built answers with `runOn`'s outputs, and the host binds their RES. -/
theorem scriptCommandBindsResult : Obligations.ScriptCommandBindsResult := by
  unfold Obligations.ScriptCommandBindsResult
  intro h target i ports rest k vs hroms htodo hvs
  obtain ⟨t, ht, hill⟩ := evaluate_encode_eq_next i (drivePorts vs h.block.inputs) h.block
  have hrun : runOn i (drivePorts vs h.block.inputs) = .next ⟨t.res, 0#1⟩ := by
    rw [runOn, ← outputsOf_evaluate_of_romsAsBuilt hroms, ht, ← hill]
    rfl
  exact ⟨_, t.res, (scriptStep_of_command htodo hvs).trans (runCommand_of_next ht target _), hrun,
    lookupName_bindName_self target t.res h.names,
    fun n hn => lookupName_bindName_of_ne hn t.res h.names, rfl, rfl,
    romsAsBuilt_of_evaluate hroms ht⟩

end Sys2Proof.Machine
end

section
/-! PROOFS of the statements of spec/40_bit_access.md, one operation at a time (R104 to R119): what an
operation gives is proved once, at any width, and the two commands of the operation write that. -/

namespace Sys2Proof.Machine

/-! ### What the commands of this family write -/

/-- Command `i` writes the W-bit value `f` of its operand ports (R13, R74). -/
structure Computes {w : Nat} (i : Instr) (f : Inputs → BitVec w) : Prop where
  exec_eq : ∀ s : State, exec i s = writeResult (f s.inputs) s
  ignores_cmd : ∀ (x : Inputs) (cmd : Command), f { x with cmd := cmd } = f x

section operations

variable (w : Nat) (x : Inputs)

/-- GET on the ports it reads (R75). -/
def getOn : BitVec w := getResult (x.a.setWidth w) x.k0.toInt

/-- GETMASKED on the ports it reads (R75). -/
def getMaskedOn : BitVec w := getMaskedResult (x.a.setWidth w) (x.b.setWidth w)

/-- SET on the ports it reads (R75). -/
def setOn : BitVec w := setResult (x.a.setWidth w) x.k0.toInt x.k1.toInt

/-- SETMASKED on the ports it reads (R75). -/
def setMaskedOn : BitVec w := setMaskedResult (x.a.setWidth w) (x.b.setWidth w) x.k0.toInt

/-- TOGGLE on the ports it reads (R75). -/
def toggleOn : BitVec w := toggleResult (x.a.setWidth w) x.k0.toInt

/-- TOGGLEMASKED on the ports it reads (R75). -/
def toggleMaskedOn : BitVec w := toggleMaskedResult (x.a.setWidth w) (x.b.setWidth w)

/-- SWAP on the ports it reads (R75). -/
def swapOn : BitVec w := swapResult (x.a.setWidth w) x.k0.toInt x.k1.toInt

/-- SWAPFIELD on the ports it reads (R75). -/
def swapFieldOn : BitVec w := swapFieldResult (x.a.setWidth w) x.k0.toInt x.k1.toInt x.k2.toInt

end operations

theorem computes_getW32 : Computes .getW32 (getOn 32) :=
  ⟨fun _ => rfl, fun _ _ => rfl⟩
theorem computes_getW64 : Computes .getW64 (getOn 64) :=
  ⟨fun _ => rfl, fun _ _ => rfl⟩
theorem computes_getmaskedW32 : Computes .getmaskedW32 (getMaskedOn 32) :=
  ⟨fun _ => rfl, fun _ _ => rfl⟩
theorem computes_getmaskedW64 : Computes .getmaskedW64 (getMaskedOn 64) :=
  ⟨fun _ => rfl, fun _ _ => rfl⟩
theorem computes_setW32 : Computes .setW32 (setOn 32) :=
  ⟨fun _ => rfl, fun _ _ => rfl⟩
theorem computes_setW64 : Computes .setW64 (setOn 64) :=
  ⟨fun _ => rfl, fun _ _ => rfl⟩
theorem computes_setmaskedW32 : Computes .setmaskedW32 (setMaskedOn 32) :=
  ⟨fun _ => rfl, fun _ _ => rfl⟩
theorem computes_setmaskedW64 : Computes .setmaskedW64 (setMaskedOn 64) :=
  ⟨fun _ => rfl, fun _ _ => rfl⟩
theorem computes_toggleW32 : Computes .toggleW32 (toggleOn 32) :=
  ⟨fun _ => rfl, fun _ _ => rfl⟩
theorem computes_toggleW64 : Computes .toggleW64 (toggleOn 64) :=
  ⟨fun _ => rfl, fun _ _ => rfl⟩
theorem computes_togglemaskedW32 : Computes .togglemaskedW32 (toggleMaskedOn 32) :=
  ⟨fun _ => rfl, fun _ _ => rfl⟩
theorem computes_togglemaskedW64 : Computes .togglemaskedW64 (toggleMaskedOn 64) :=
  ⟨fun _ => rfl, fun _ _ => rfl⟩
theorem computes_swapW32 : Computes .swapW32 (swapOn 32) :=
  ⟨fun _ => rfl, fun _ _ => rfl⟩
theorem computes_swapW64 : Computes .swapW64 (swapOn 64) :=
  ⟨fun _ => rfl, fun _ _ => rfl⟩
theorem computes_swapfieldW32 : Computes .swapfieldW32 (swapFieldOn 32) :=
  ⟨fun _ => rfl, fun _ _ => rfl⟩
theorem computes_swapfieldW64 : Computes .swapfieldW64 (swapFieldOn 64) :=
  ⟨fun _ => rfl, fun _ _ => rfl⟩

section results

variable {w : Nat} (a b : BitVec w)

/-! ### GET and GETMASKED -/

theorem getSpec_getResult (i : Int) : GetSpec w a i (getResult a i) := by
  refine ⟨fun hi => ?_, fun hi => if_neg hi⟩
  rw [getResult, if_pos hi, BitVec.and_one_eq_setWidth_ofBool_getLsbD, BitVec.getLsbD_ushiftRight,
    Nat.add_zero]

theorem getMaskedSpec_getMaskedResult : GetMaskedSpec w a b (getMaskedResult a b) := by
  intro k _
  rw [getMaskedResult, BitVec.getLsbD_and]
  cases b.getLsbD k <;> simp

/-! ### SET and SETMASKED -/

/-- A signed index in domain names the bit at its value (R101). -/
theorem natCast_eq_iff_eq_toNat {i : Int} (hi : 0 ≤ i) (k : Nat) : (k : Int) = i ↔ k = i.toNat := by
  omega

/-- A bitValue in domain is written as it is, whatever the open bit (R102). -/
theorem writtenBit_of_bitValueIn {v : Int} (hv : BitValueIn v) (u : Bool) :
    writtenBit v u = (lowBit v).getLsbD 0 := by
  obtain rfl | rfl := hv <;> rfl

/-- A bitValue out of domain writes the open bit (R102). -/
theorem writtenBit_of_not_bitValueIn {v : Int} (hv : ¬BitValueIn v) (u : Bool) :
    writtenBit v u = u := by
  rw [not_or] at hv
  rw [writtenBit, if_neg hv.2, if_neg hv.1]

theorem setSpec_setResult (i v : Int) : SetSpec w a i v (setResult a i v) := by
  refine ⟨fun hi k hk => ?_, fun hi => if_neg hi⟩
  have hki := natCast_eq_iff_eq_toNat hi.1 k
  rw [setResult, if_pos hi]
  by_cases hv : BitValueIn v
  · simp only [if_pos hv, getLsbD_replaceBit _ _ _ hk, hki, writtenBit_of_bitValueIn hv]
  · simp only [if_neg hv, getLsbD_replaceBit _ _ _ hk, hki, writtenBit_of_not_bitValueIn hv]

/-- A one-bit value is 1 exactly when its bit is set, as `rep_W` reads it (R12). -/
theorem decide_eq_one_eq_getLsbD (b : BitVec 1) : decide (b = 1#1) = b.getLsbD 0 := by
  revert b; decide

theorem setMaskedSpec_setMaskedResult (v : Int) : SetMaskedSpec w a b v (setMaskedResult a b v) := by
  intro k hk
  rw [setMaskedResult]
  by_cases hv : BitValueIn v
  · rw [if_pos hv, writtenBit_of_bitValueIn hv]
    cases hb : b.getLsbD k <;> simp [hk, hb, decide_eq_one_eq_getLsbD, -BitVec.getLsbD_eq_getElem]
  · rw [if_neg hv, writtenBit_of_not_bitValueIn hv]
    cases hb : b.getLsbD k <;> simp [hk, hb, -BitVec.getLsbD_eq_getElem]

/-! ### TOGGLE and TOGGLEMASKED -/

theorem toggleSpec_toggleResult (i : Int) : ToggleSpec w a i (toggleResult a i) := by
  refine ⟨fun hi k hk => ?_, fun hi => if_neg hi⟩
  rw [toggleResult, if_pos hi, BitVec.getLsbD_xor, getLsbD_bitAt, decide_eq_true hk,
    Bool.true_and]
  simp only [natCast_eq_iff_eq_toNat hi.1]
  split_ifs with hki <;> simp [hki]

theorem toggleMaskedSpec_toggleMaskedResult :
    ToggleMaskedSpec w a b (toggleMaskedResult a b) := by
  intro k _
  rw [toggleMaskedResult, BitVec.getLsbD_xor]
  cases b.getLsbD k <;> simp

/-! ### SWAP and SWAPFIELD -/

/-- `exchange` with an n-bit mask and disjoint places exchanges the two n-bit fields. -/
theorem getLsbD_exchange_ones {i j n k : Nat} (hdisj : i + n ≤ j ∨ j + n ≤ i) (hk : k < w) :
    (exchange a i j (ones w n)).getLsbD k =
      if i ≤ k ∧ k < i + n then a.getLsbD (k - i + j)
      else if j ≤ k ∧ k < j + n then a.getLsbD (k - j + i) else a.getLsbD k := by
  have hin (p : Nat) : (decide (p ≤ k) && (ones w n).getLsbD (k - p)) =
      decide (p ≤ k ∧ k < p + n) := by
    rw [getLsbD_ones, Bool.eq_iff_iff]
    simp only [Bool.and_eq_true, decide_eq_true_eq]
    omega
  rw [getLsbD_exchange a _ i j hk, ← Bool.and_assoc, ← Bool.and_assoc, hin, hin,
    Nat.add_comm j, Nat.add_comm i (k - j)]
  by_cases hki : i ≤ k ∧ k < i + n
  · have hkj : ¬(j ≤ k ∧ k < j + n) := by omega
    simp [hki, hkj, -BitVec.getLsbD_eq_getElem]
  · by_cases hkj : j ≤ k ∧ k < j + n <;> simp [hki, hkj, Bool.xor_comm, -BitVec.getLsbD_eq_getElem]

/-- `exchange` at one place changes nothing. -/
theorem exchange_self (i : Nat) (m : BitVec w) : exchange a i i m = a := by
  simp [exchange]

/-- `exchange` with the one-bit mask exchanges two bits. -/
theorem getLsbD_exchange_one {i j k : Nat} (hk : k < w) :
    (exchange a i j 1#w).getLsbD k =
      if k = i then a.getLsbD j else if k = j then a.getLsbD i else a.getLsbD k := by
  by_cases hij : i = j
  · subst hij
    rw [exchange_self]
    split <;> simp_all
  · have hone : 1#w = ones w 1 := rfl
    have hat (p : Nat) : p ≤ k ∧ k < p + 1 ↔ k = p := by omega
    rw [hone, getLsbD_exchange_ones a (by omega) hk]
    simp only [hat]
    split_ifs <;> simp_all

theorem swapSpec_swapResult (i j : Int) : SwapSpec w a i j (swapResult a i j) := by
  refine ⟨fun hij k hk => ?_, fun hij => if_neg hij⟩
  simp only [swapResult, if_pos hij, getLsbD_exchange_one a hk, natCast_eq_iff_eq_toNat hij.1.1,
    natCast_eq_iff_eq_toNat hij.2.1]

/-- In domain, SWAPFIELD exchanges the two fields, empty ones too (R103). -/
theorem getLsbD_swapFieldResult {i j n : Nat} (hfields : FieldsIn w i j n) {k : Nat} (hk : k < w) :
    (swapFieldResult a i j n).getLsbD k =
      if i ≤ k ∧ k < i + n then a.getLsbD (k - i + j)
      else if j ≤ k ∧ k < j + n then a.getLsbD (k - j + i) else a.getLsbD k := by
  rw [swapFieldResult, if_pos hfields]
  obtain ⟨-, -, hdisj⟩ := hfields
  split
  · rw [if_neg (by omega), if_neg (by omega)]
  · exact getLsbD_exchange_ones a (by omega) hk

theorem swapFieldSpec_swapFieldResult (i j n : Int) :
    SwapFieldSpec w a i j n (swapFieldResult a i j n) := by
  refine ⟨fun hfields k hk => ?_, fun hfields => if_neg hfields⟩
  obtain ⟨hn, hi, hj⟩ := hfields.1
  lift i to ℕ using hi
  lift j to ℕ using hj
  lift n to ℕ using hn
  have htoNat (p q : Nat) (hp : p ≤ k) : ((k : Int) - p + (q : Int)).toNat = k - p + q := by omega
  rw [getLsbD_swapFieldResult a hfields hk]
  simp only [← Nat.cast_add, Nat.cast_le, Nat.cast_lt]
  split_ifs with hki hkj
  · rw [htoNat i j hki.1]
  · rw [htoNat j i hkj.1]
  · rfl

end results

/-! ### The statements -/

/-- Settles O1: bit i of x is the low bit of x shifted down by i. -/
theorem getReadsBit : Obligations.GetReadsBit := by
  unfold Obligations.GetReadsBit
  exact ⟨⟨rfl, rfl⟩, fun s => ⟨_, computes_getW32.exec_eq s, getSpec_getResult _ _⟩,
    fun s => ⟨_, computes_getW64.exec_eq s, getSpec_getResult _ _⟩⟩

/-- Settles O2: bit by bit, the mask chooses between the bit of x and 0. -/
theorem getMaskedClearsOutsideMask : Obligations.GetMaskedClearsOutsideMask := by
  unfold Obligations.GetMaskedClearsOutsideMask
  exact ⟨⟨rfl, rfl⟩,
    fun s => ⟨_, computes_getmaskedW32.exec_eq s, getMaskedSpec_getMaskedResult _ _⟩,
    fun s => ⟨_, computes_getmaskedW64.exec_eq s, getMaskedSpec_getMaskedResult _ _⟩⟩

/-- Settles O3: in domain `replaceBit` writes one bit, with the open bit when bitValue is misused. -/
theorem setForcesBit : Obligations.SetForcesBit := by
  unfold Obligations.SetForcesBit
  exact ⟨⟨rfl, rfl⟩, fun s => ⟨_, computes_setW32.exec_eq s, setSpec_setResult _ _ _⟩,
    fun s => ⟨_, computes_setW64.exec_eq s, setSpec_setResult _ _ _⟩⟩

/-- Settles O4: bit by bit, the mask chooses between the written bit and the bit of x. -/
theorem setMaskedForcesMaskedBits : Obligations.SetMaskedForcesMaskedBits := by
  unfold Obligations.SetMaskedForcesMaskedBits
  exact ⟨⟨rfl, rfl⟩,
    fun s => ⟨_, computes_setmaskedW32.exec_eq s, setMaskedSpec_setMaskedResult _ _ _⟩,
    fun s => ⟨_, computes_setmaskedW64.exec_eq s, setMaskedSpec_setMaskedResult _ _ _⟩⟩

/-- Settles O5: the exclusive-or with `1 << i` flips bit i alone. -/
theorem toggleFlipsBit : Obligations.ToggleFlipsBit := by
  unfold Obligations.ToggleFlipsBit
  exact ⟨⟨rfl, rfl⟩, fun s => ⟨_, computes_toggleW32.exec_eq s, toggleSpec_toggleResult _ _⟩,
    fun s => ⟨_, computes_toggleW64.exec_eq s, toggleSpec_toggleResult _ _⟩⟩

/-- Settles O6: bit by bit, the exclusive-or with the mask flips the bits in it. -/
theorem toggleMaskedFlipsMaskedBits : Obligations.ToggleMaskedFlipsMaskedBits := by
  unfold Obligations.ToggleMaskedFlipsMaskedBits
  exact ⟨⟨rfl, rfl⟩,
    fun s => ⟨_, computes_togglemaskedW32.exec_eq s, toggleMaskedSpec_toggleMaskedResult _ _⟩,
    fun s => ⟨_, computes_togglemaskedW64.exec_eq s, toggleMaskedSpec_toggleMaskedResult _ _⟩⟩

/-- Settles O7: the exchange of two one-bit fields, or of a bit with itself. -/
theorem swapExchangesBits : Obligations.SwapExchangesBits := by
  unfold Obligations.SwapExchangesBits
  exact ⟨⟨rfl, rfl⟩, fun s => ⟨_, computes_swapW32.exec_eq s, swapSpec_swapResult _ _ _⟩,
    fun s => ⟨_, computes_swapW64.exec_eq s, swapSpec_swapResult _ _ _⟩⟩

/-- Settles O8: the exchange of two disjoint fields, or nothing when they are empty. -/
theorem swapFieldExchangesFields : Obligations.SwapFieldExchangesFields := by
  unfold Obligations.SwapFieldExchangesFields
  exact ⟨⟨rfl, rfl⟩,
    fun s => ⟨_, computes_swapfieldW32.exec_eq s, swapFieldSpec_swapFieldResult _ _ _ _⟩,
    fun s => ⟨_, computes_swapfieldW64.exec_eq s, swapFieldSpec_swapFieldResult _ _ _ _⟩⟩

end Sys2Proof.Machine
end

section
/-! PROOFS of the laws of spec/40_bit_access.md (R120 to R123): each law is an equation between the
operations at any width, and the commands feed it through the ports. -/

namespace Sys2Proof.Machine

/-- What a command that writes `f` shows on its outputs, whatever stood on CMD. -/
theorem Computes.runOn_eq {w : Nat} {i : Instr} {f : Inputs → BitVec w} (h : Computes i f)
    (x : Inputs) : runOn i x = .next ⟨(f x).setWidth 64, 0#1⟩ := by
  rw [runOn, eval, evaluate_encode, h.exec_eq, present_inputs, h.ignores_cmd]
  rfl

/-- A result fed back on a data port is read back whole (R73, R74). -/
theorem setWidth_setWidth_self {w : Nat} (hw : w ≤ 64) (r : BitVec w) :
    (r.setWidth 64).setWidth w = r := by
  rw [BitVec.setWidth_setWidth_of_le r hw, BitVec.setWidth_eq]

section laws

variable {w : Nat} (a : BitVec w)

/-! ### R120 -/

theorem getResult_of_indexIn {i : Int} (hi : IndexIn w i) :
    getResult a i = (BitVec.ofBool (a.getLsbD i.toNat)).setWidth w := if_pos hi

/-- GET at the bit just SET reads the bitValue. -/
theorem getResult_setResult {i v : Int} (hi : IndexIn w i) (hv : BitValueIn v) :
    getResult (setResult a i v) i = (lowBit v).setWidth w := by
  have hat : ((i.toNat : Nat) : Int) = i := Int.toNat_of_nonneg hi.1
  rw [getResult_of_indexIn _ hi, (setSpec_setResult a i v).1 hi _ (by omega), if_pos hat]
  obtain rfl | rfl := hv <;> rfl

theorem toggleResult_toggleResult {i : Int} (hi : IndexIn w i) :
    toggleResult (toggleResult a i) i = a := by
  simp only [toggleResult, if_pos hi, BitVec.xor_assoc, BitVec.xor_self, BitVec.xor_zero]

/-! ### R121 -/

theorem swapResult_swapResult {i j : Int} (hi : IndexIn w i) (hj : IndexIn w j) :
    swapResult (swapResult a i j) i j = a := by
  simp only [swapResult, if_pos (And.intro hi hj)]
  refine BitVec.eq_of_getLsbD_eq fun k hk => ?_
  rw [getLsbD_exchange_one _ hk, getLsbD_exchange_one a (by omega),
    getLsbD_exchange_one a (by omega), getLsbD_exchange_one a hk]
  split_ifs <;> simp_all

/-- The bit that comes to one place from the other field came from that place. -/
theorem swapFieldResult_swapFieldResult {i j n : Int} (hfields : FieldsIn w i j n) :
    swapFieldResult (swapFieldResult a i j n) i j n = a := by
  obtain ⟨hn, hi, hj⟩ := hfields.1
  lift i to ℕ using hi
  lift j to ℕ using hj
  lift n to ℕ using hn
  have ⟨_, hin, hdisj⟩ := hfields
  refine BitVec.eq_of_getLsbD_eq fun k hk => ?_
  rw [getLsbD_swapFieldResult _ hfields hk]
  split_ifs with hki hkj
  · rw [getLsbD_swapFieldResult a hfields (by omega), if_neg (by omega), if_pos (by omega)]
    congr 1
    omega
  · rw [getLsbD_swapFieldResult a hfields (by omega), if_pos (by omega)]
    congr 1
    omega
  · rw [getLsbD_swapFieldResult a hfields hk, if_neg hki, if_neg hkj]

/-! ### R122 -/

/-- `1 << i` cut, or extended while bit i fits, is `1 << i` at the other width. -/
theorem setWidth_bitAt {i v : Nat} (h : i < w ∨ v ≤ w) : (bitAt w i).setWidth v = bitAt v i := by
  refine BitVec.eq_of_getLsbD_eq fun k hk => ?_
  rw [BitVec.getLsbD_setWidth, getLsbD_bitAt, getLsbD_bitAt, Bool.eq_iff_iff]
  simp only [Bool.and_eq_true, decide_eq_true_eq]
  omega

theorem setResult_eq_setMaskedResult {i v : Int} (hi : IndexIn w i) (hv : BitValueIn v) :
    setResult a i v = setMaskedResult a (bitAt w i.toNat) v := by
  refine BitVec.eq_of_getLsbD_eq fun k hk => ?_
  rw [(setSpec_setResult a i v).1 hi k hk, setMaskedSpec_setMaskedResult a _ v k hk, getLsbD_bitAt,
    writtenBit_of_bitValueIn hv, writtenBit_of_bitValueIn hv]
  simp [hk, natCast_eq_iff_eq_toNat hi.1]

theorem toggleResult_eq_toggleMaskedResult {i : Int} (hi : IndexIn w i) :
    toggleResult a i = toggleMaskedResult a (bitAt w i.toNat) := if_pos hi

theorem bitAt_ushiftRight_self {i : Nat} (hi : i < w) : bitAt w i >>> i = 1#w := by
  refine BitVec.eq_of_getLsbD_eq fun k hk => ?_
  rw [BitVec.getLsbD_ushiftRight, getLsbD_bitAt, BitVec.getLsbD_one, Bool.eq_iff_iff]
  simp only [Bool.and_eq_true, decide_eq_true_eq]
  omega

theorem getResult_eq_getMaskedResult_ushiftRight {i : Int} (hi : IndexIn w i) :
    getResult a i = getMaskedResult a (bitAt w i.toNat) >>> i.toNat := by
  rw [(getSpec_getResult a i).1 hi, getMaskedResult, BitVec.ushiftRight_and_distrib,
    bitAt_ushiftRight_self (by omega)]

/-! ### R123 -/

theorem getMaskedResult_setWidth (b : BitVec w) (v : Nat) :
    getMaskedResult (a.setWidth v) (b.setWidth v) = (getMaskedResult a b).setWidth v :=
  BitVec.setWidth_and.symm

theorem toggleMaskedResult_setWidth (b : BitVec w) (v : Nat) :
    toggleMaskedResult (a.setWidth v) (b.setWidth v) = (toggleMaskedResult a b).setWidth v :=
  BitVec.setWidth_xor.symm

section crossWidth

variable {v : Nat} (hwv : w ≤ v)
include hwv

theorem getLsbD_setWidth_of_le (k : Nat) : (a.setWidth v).getLsbD k = a.getLsbD k := by
  rw [BitVec.getLsbD_setWidth, Bool.and_eq_right_iff_imp, decide_eq_true_eq]
  exact fun h => (BitVec.lt_of_getLsbD h).trans_le hwv

/-- A wider value with the bits of `r`, and no others, is `r` zero-extended. -/
theorem eq_setWidth_of_getLsbD {r : BitVec w} {r' : BitVec v}
    (hlow : ∀ k < w, r'.getLsbD k = r.getLsbD k)
    (hhigh : ∀ k < v, w ≤ k → r'.getLsbD k = false) : r' = r.setWidth v := by
  refine BitVec.eq_of_getLsbD_eq fun k hk => ?_
  rw [getLsbD_setWidth_of_le r hwv]
  by_cases hkw : k < w
  · exact hlow k hkw
  · rw [hhigh k hk (by omega), BitVec.getLsbD_of_ge r k (by omega)]

theorem indexIn_of_le {i : Int} (hi : IndexIn w i) : IndexIn v i := ⟨hi.1, by omega⟩

theorem fieldsIn_of_le {i j n : Int} (h : FieldsIn w i j n) : FieldsIn v i j n :=
  ⟨h.1, by omega, h.2.2⟩

theorem getResult_setWidth {i : Int} (hi : IndexIn w i) :
    getResult (a.setWidth v) i = (getResult a i).setWidth v := by
  rw [getResult_of_indexIn _ (indexIn_of_le hwv hi), getResult_of_indexIn _ hi,
    getLsbD_setWidth_of_le a hwv, BitVec.setWidth_setWidth (by omega)]

theorem setResult_setWidth {i u : Int} (hi : IndexIn w i) (hu : BitValueIn u) :
    setResult (a.setWidth v) i u = (setResult a i u).setWidth v := by
  have hbit {k : Nat} (hk : k < v) :=
    (setSpec_setResult (a.setWidth v) i u).1 (indexIn_of_le hwv hi) k hk
  simp only [getLsbD_setWidth_of_le a hwv, writtenBit_of_bitValueIn hu] at hbit
  refine eq_setWidth_of_getLsbD hwv (fun k hk => ?_) fun k hk hkw => ?_
  · rw [hbit (by omega), (setSpec_setResult a i u).1 hi k hk, writtenBit_of_bitValueIn hu]
  · rw [hbit hk, if_neg (by omega), BitVec.getLsbD_of_ge a k hkw]

theorem setMaskedResult_setWidth (b : BitVec w) {u : Int} (hu : BitValueIn u) :
    setMaskedResult (a.setWidth v) (b.setWidth v) u = (setMaskedResult a b u).setWidth v := by
  have hbit {k : Nat} (hk : k < v) :=
    setMaskedSpec_setMaskedResult (a.setWidth v) (b.setWidth v) u k hk
  simp only [getLsbD_setWidth_of_le _ hwv, writtenBit_of_bitValueIn hu] at hbit
  refine eq_setWidth_of_getLsbD hwv (fun k hk => ?_) fun k hk hkw => ?_
  · rw [hbit (by omega), setMaskedSpec_setMaskedResult a b u k hk, writtenBit_of_bitValueIn hu]
  · rw [hbit hk, BitVec.getLsbD_of_ge a k hkw, BitVec.getLsbD_of_ge b k hkw]
    rfl

theorem toggleResult_setWidth {i : Int} (hi : IndexIn w i) :
    toggleResult (a.setWidth v) i = (toggleResult a i).setWidth v := by
  rw [toggleResult, if_pos (indexIn_of_le hwv hi), toggleResult, if_pos hi, BitVec.setWidth_xor,
    setWidth_bitAt (.inl (by omega))]

theorem swapResult_setWidth {i j : Int} (hi : IndexIn w i) (hj : IndexIn w j) :
    swapResult (a.setWidth v) i j = (swapResult a i j).setWidth v := by
  have hbit {k : Nat} (hk : k < v) := (swapSpec_swapResult (a.setWidth v) i j).1
    ⟨indexIn_of_le hwv hi, indexIn_of_le hwv hj⟩ k hk
  simp only [getLsbD_setWidth_of_le a hwv] at hbit
  refine eq_setWidth_of_getLsbD hwv (fun k hk => ?_) fun k hk hkw => ?_
  · rw [hbit (by omega), (swapSpec_swapResult a i j).1 ⟨hi, hj⟩ k hk]
  · rw [hbit hk, if_neg (by omega), if_neg (by omega), BitVec.getLsbD_of_ge a k hkw]

theorem swapFieldResult_setWidth {i j n : Int} (hfields : FieldsIn w i j n) :
    swapFieldResult (a.setWidth v) i j n = (swapFieldResult a i j n).setWidth v := by
  have hbit {k : Nat} (hk : k < v) := (swapFieldSpec_swapFieldResult (a.setWidth v) i j n).1
    (fieldsIn_of_le hwv hfields) k hk
  simp only [getLsbD_setWidth_of_le a hwv] at hbit
  refine eq_setWidth_of_getLsbD hwv (fun k hk => ?_) fun k hk hkw => ?_
  · rw [hbit (by omega), (swapFieldSpec_swapFieldResult a i j n).1 hfields k hk]
  · rw [hbit hk, if_neg (by omega), if_neg (by omega), BitVec.getLsbD_of_ge a k hkw]

end crossWidth

end laws

/-! ### The laws as the commands show them -/

/-- At one width, GET of the RES of SET is the bitValue (R120). -/
theorem get_after_set {w : Nat} (hw : w ≤ 64) {get set : Instr} (hget : Computes get (getOn w))
    (hset : Computes set (setOn w)) {x : Inputs} (hi : IndexIn w x.k0.toInt) {k1 : Scalar}
    (hv : BitValueIn k1.toInt) :
    ∃ v, runOn set { x with k1 := k1 } = .next ⟨v, 0#1⟩ ∧
      runOn get { x with a := v } = .next ⟨(lowBit k1.toInt).setWidth 64, 0#1⟩ := by
  refine ⟨_, hset.runOn_eq _, ?_⟩
  rw [hget.runOn_eq, getOn, setOn, setWidth_setWidth_self hw, getResult_setResult _ hi hv,
    BitVec.setWidth_setWidth (by omega)]

/-- At one width, TOGGLE of the RES of TOGGLE is x (R120). -/
theorem toggle_after_toggle {w : Nat} (hw : w ≤ 64) {toggle : Instr}
    (htoggle : Computes toggle (toggleOn w)) {x : Inputs} (hi : IndexIn w x.k0.toInt) :
    ∃ v, runOn toggle x = .next ⟨v, 0#1⟩ ∧
      runOn toggle { x with a := v } = .next ⟨(x.a.setWidth w).setWidth 64, 0#1⟩ := by
  refine ⟨_, htoggle.runOn_eq _, ?_⟩
  rw [htoggle.runOn_eq, toggleOn, toggleOn, setWidth_setWidth_self hw,
    toggleResult_toggleResult _ hi]

/-- Settles O36: GET reads the bit that SET wrote, and the two exclusive-ors cancel. -/
theorem getSetToggleLaws : Obligations.GetSetToggleLaws := by
  unfold Obligations.GetSetToggleLaws
  simp only [List.forall_mem_cons]
  exact ⟨fun x hi => ⟨get_after_set (by decide) computes_getW32 computes_setW32 hi (.inr rfl),
      get_after_set (by decide) computes_getW32 computes_setW32 hi (.inl rfl),
      toggle_after_toggle (by decide) computes_toggleW32 hi⟩,
    fun x hi => ⟨get_after_set (by decide) computes_getW64 computes_setW64 hi (.inr rfl),
      get_after_set (by decide) computes_getW64 computes_setW64 hi (.inl rfl),
      toggle_after_toggle (by decide) computes_toggleW64 hi⟩, List.forall_mem_nil _⟩

/-- R121 for the commands of one width. -/
theorem swaps_involutive_of_computes {w : Nat} (hw : w ≤ 64) {swap swapField : Instr}
    (hswap : Computes swap (swapOn w)) (hswapField : Computes swapField (swapFieldOn w))
    (x : Inputs) :
    (IndexIn w x.k0.toInt → IndexIn w x.k1.toInt → ∃ v, runOn swap x = .next ⟨v, 0#1⟩ ∧
      runOn swap { x with a := v } = .next ⟨(x.a.setWidth w).setWidth 64, 0#1⟩) ∧
    (FieldsIn w x.k0.toInt x.k1.toInt x.k2.toInt → ∃ v, runOn swapField x = .next ⟨v, 0#1⟩ ∧
      runOn swapField { x with a := v } = .next ⟨(x.a.setWidth w).setWidth 64, 0#1⟩) := by
  refine ⟨fun hi hj => ⟨_, hswap.runOn_eq _, ?_⟩, fun hfields => ⟨_, hswapField.runOn_eq _, ?_⟩⟩
  · rw [hswap.runOn_eq, swapOn, swapOn, setWidth_setWidth_self hw, swapResult_swapResult _ hi hj]
  · rw [hswapField.runOn_eq, swapFieldOn, swapFieldOn, setWidth_setWidth_self hw,
      swapFieldResult_swapFieldResult _ hfields]

/-- Settles O37: a bit exchanged twice is back in its place. -/
theorem swapsAreInvolutions : Obligations.SwapsAreInvolutions := by
  unfold Obligations.SwapsAreInvolutions
  simp only [List.forall_mem_cons]
  exact ⟨swaps_involutive_of_computes (by decide) computes_swapW32 computes_swapfieldW32,
    swaps_involutive_of_computes (by decide) computes_swapW64 computes_swapfieldW64,
    List.forall_mem_nil _⟩

/-- SET and SETMASKED of one width agree (R122). -/
theorem set_eq_setMasked_of_computes {w : Nat} (hw : w ≤ 64) {set setMasked : Instr}
    (hset : Computes set (setOn w)) (hsetMasked : Computes setMasked (setMaskedOn w)) {x : Inputs}
    (hi : IndexIn w x.k0.toInt) (hv : BitValueIn x.k1.toInt) :
    runOn set x = runOn setMasked { x with b := bitAt 64 x.k0.toInt.toNat, k0 := x.k1 } := by
  rw [hset.runOn_eq, hsetMasked.runOn_eq, setOn, setMaskedOn, setWidth_bitAt (.inr hw),
    setResult_eq_setMaskedResult _ hi hv]

/-- TOGGLE and TOGGLEMASKED of one width agree (R122). -/
theorem toggle_eq_toggleMasked_of_computes {w : Nat} (hw : w ≤ 64) {toggle toggleMasked : Instr}
    (htoggle : Computes toggle (toggleOn w))
    (htoggleMasked : Computes toggleMasked (toggleMaskedOn w)) {x : Inputs}
    (hi : IndexIn w x.k0.toInt) :
    runOn toggle x = runOn toggleMasked { x with b := bitAt 64 x.k0.toInt.toNat } := by
  rw [htoggle.runOn_eq, htoggleMasked.runOn_eq, toggleOn, toggleMaskedOn, setWidth_bitAt (.inr hw),
    toggleResult_eq_toggleMaskedResult _ hi]

/-- GET and GETMASKED of one width agree, up to the shift (R122). -/
theorem get_eq_getMasked_of_computes {w : Nat} (hw : w ≤ 64) {get getMasked : Instr}
    (hget : Computes get (getOn w)) (hgetMasked : Computes getMasked (getMaskedOn w)) {x : Inputs}
    (hi : IndexIn w x.k0.toInt) :
    ∃ v, runOn getMasked { x with b := bitAt 64 x.k0.toInt.toNat } = .next ⟨v, 0#1⟩ ∧
      runOn get x = .next ⟨v >>> x.k0.toInt.toNat, 0#1⟩ := by
  refine ⟨_, hgetMasked.runOn_eq _, ?_⟩
  rw [hget.runOn_eq, getOn, getMaskedOn, setWidth_bitAt (.inr hw), ← BitVec.setWidth_ushiftRight hw,
    getResult_eq_getMaskedResult_ushiftRight _ hi]

/-- Settles O38: the mask `1 << i` picks the one bit that the single-bit form names. -/
theorem maskedFormsAgree : Obligations.MaskedFormsAgree := by
  unfold Obligations.MaskedFormsAgree
  simp only [List.forall_mem_cons]
  exact ⟨fun x hi =>
      ⟨set_eq_setMasked_of_computes (by decide) computes_setW32 computes_setmaskedW32 hi,
        toggle_eq_toggleMasked_of_computes (by decide) computes_toggleW32
          computes_togglemaskedW32 hi,
        get_eq_getMasked_of_computes (by decide) computes_getW32 computes_getmaskedW32 hi⟩,
    fun x hi =>
      ⟨set_eq_setMasked_of_computes (by decide) computes_setW64 computes_setmaskedW64 hi,
        toggle_eq_toggleMasked_of_computes (by decide) computes_toggleW64
          computes_togglemaskedW64 hi,
        get_eq_getMasked_of_computes (by decide) computes_getW64 computes_getmaskedW64 hi⟩,
    List.forall_mem_nil _⟩

/-- Cutting a port to its low half loses nothing when its high half is 0 (R123). -/
theorem setWidth_setWidth_of_high_zero {a : Data} (h : a.extractLsb' 32 32 = 0#32) :
    (a.setWidth 32).setWidth 64 = a.setWidth 64 := by
  rw [BitVec.setWidth_eq, eq_comm]
  refine eq_setWidth_of_getLsbD (by decide) (fun k hk => ?_) fun k hk hkw => ?_
  · simp [hk, -BitVec.getLsbD_eq_getElem]
  · have hbit := congrArg (fun r => r.getLsbD (k - 32)) h
    have hlow : k - 32 < 32 := by omega
    simpa [hlow, Nat.add_sub_cancel' hkw, -BitVec.getLsbD_eq_getElem] using hbit

/-- A W32 and a W64 command give the same outputs when the one's result is the other's, extended. -/
theorem runOn_eq_runOn {i j : Instr} {f : Inputs → BitVec 32} {g : Inputs → BitVec 64}
    (hf : Computes i f) (hg : Computes j g) {x : Inputs} (h : g x = (f x).setWidth 64) :
    runOn i x = runOn j x := by
  rw [hf.runOn_eq, hg.runOn_eq, ← h, BitVec.setWidth_eq]

section zeroHighHalves

variable {x : Inputs} (ha : x.a.extractLsb' 32 32 = 0#32)
include ha

theorem getOn_64 (hi : IndexIn 32 x.k0.toInt) : getOn 64 x = (getOn 32 x).setWidth 64 := by
  rw [getOn, ← setWidth_setWidth_of_high_zero ha, getResult_setWidth _ (by decide) hi, getOn]

theorem getMaskedOn_64 (hb : x.b.extractLsb' 32 32 = 0#32) :
    getMaskedOn 64 x = (getMaskedOn 32 x).setWidth 64 := by
  rw [getMaskedOn, ← setWidth_setWidth_of_high_zero ha, ← setWidth_setWidth_of_high_zero hb,
    getMaskedResult_setWidth, getMaskedOn]

theorem setOn_64 (hi : IndexIn 32 x.k0.toInt) (hv : BitValueIn x.k1.toInt) :
    setOn 64 x = (setOn 32 x).setWidth 64 := by
  rw [setOn, ← setWidth_setWidth_of_high_zero ha, setResult_setWidth _ (by decide) hi hv, setOn]

theorem setMaskedOn_64 (hb : x.b.extractLsb' 32 32 = 0#32) (hv : BitValueIn x.k0.toInt) :
    setMaskedOn 64 x = (setMaskedOn 32 x).setWidth 64 := by
  rw [setMaskedOn, ← setWidth_setWidth_of_high_zero ha, ← setWidth_setWidth_of_high_zero hb,
    setMaskedResult_setWidth _ (by decide) _ hv, setMaskedOn]

theorem toggleOn_64 (hi : IndexIn 32 x.k0.toInt) :
    toggleOn 64 x = (toggleOn 32 x).setWidth 64 := by
  rw [toggleOn, ← setWidth_setWidth_of_high_zero ha, toggleResult_setWidth _ (by decide) hi,
    toggleOn]

theorem toggleMaskedOn_64 (hb : x.b.extractLsb' 32 32 = 0#32) :
    toggleMaskedOn 64 x = (toggleMaskedOn 32 x).setWidth 64 := by
  rw [toggleMaskedOn, ← setWidth_setWidth_of_high_zero ha, ← setWidth_setWidth_of_high_zero hb,
    toggleMaskedResult_setWidth, toggleMaskedOn]

theorem swapOn_64 (hi : IndexIn 32 x.k0.toInt) (hj : IndexIn 32 x.k1.toInt) :
    swapOn 64 x = (swapOn 32 x).setWidth 64 := by
  rw [swapOn, ← setWidth_setWidth_of_high_zero ha, swapResult_setWidth _ (by decide) hi hj, swapOn]

theorem swapFieldOn_64 (hfields : FieldsIn 32 x.k0.toInt x.k1.toInt x.k2.toInt) :
    swapFieldOn 64 x = (swapFieldOn 32 x).setWidth 64 := by
  rw [swapFieldOn, ← setWidth_setWidth_of_high_zero ha,
    swapFieldResult_setWidth _ (by decide) hfields, swapFieldOn]

end zeroHighHalves

/-- The 32-bit domains lie in the 64-bit ones (R101, R103). -/
theorem indexIn_64 {i : Int} : IndexIn 32 i → IndexIn 64 i := indexIn_of_le (by decide)

theorem fieldsIn_64 {i j n : Int} : FieldsIn 32 i j n → FieldsIn 64 i j n :=
  fieldsIn_of_le (by decide)

/-- Settles O39: in the 32-bit domain every bit from 32 up is the 0 of x there. -/
theorem bitAccessAgreesAcrossWidths : Obligations.BitAccessAgreesAcrossWidths := by
  unfold Obligations.BitAccessAgreesAcrossWidths
  simp only [List.forall_mem_cons]
  refine ⟨?get, ?getMasked, ?set, ?setMasked, ?toggle, ?toggleMasked, ?swap, ?swapField,
    List.forall_mem_nil _⟩ <;> intro x ha hb hdomain
  case get =>
    exact ⟨indexIn_64 hdomain,
      runOn_eq_runOn computes_getW32 computes_getW64 (getOn_64 ha hdomain)⟩
  case getMasked =>
    exact ⟨trivial,
      runOn_eq_runOn computes_getmaskedW32 computes_getmaskedW64 (getMaskedOn_64 ha hb)⟩
  case set =>
    obtain ⟨hi, hv⟩ := hdomain
    exact ⟨⟨indexIn_64 hi, hv⟩,
      runOn_eq_runOn computes_setW32 computes_setW64 (setOn_64 ha hi hv)⟩
  case setMasked =>
    exact ⟨hdomain,
      runOn_eq_runOn computes_setmaskedW32 computes_setmaskedW64 (setMaskedOn_64 ha hb hdomain)⟩
  case toggle =>
    exact ⟨indexIn_64 hdomain,
      runOn_eq_runOn computes_toggleW32 computes_toggleW64 (toggleOn_64 ha hdomain)⟩
  case toggleMasked =>
    exact ⟨trivial,
      runOn_eq_runOn computes_togglemaskedW32 computes_togglemaskedW64 (toggleMaskedOn_64 ha hb)⟩
  case swap =>
    obtain ⟨hi, hj⟩ := hdomain
    exact ⟨⟨indexIn_64 hi, indexIn_64 hj⟩,
      runOn_eq_runOn computes_swapW32 computes_swapW64 (swapOn_64 ha hi hj)⟩
  case swapField =>
    exact ⟨fieldsIn_64 hdomain,
      runOn_eq_runOn computes_swapfieldW32 computes_swapfieldW64 (swapFieldOn_64 ha hdomain)⟩

end Sys2Proof.Machine
end

section
/-! PROOFS of the statements of spec/41_count_parity.md, one operation at a time (R142 to R149): what
COUNT, PARITY and PARITYN give is said once, at any width, in terms of the number of set bits. -/

namespace Sys2Proof.Machine

/-! ### What the commands of this family write -/

section operations

variable (w : Nat) (x : Inputs)

/-- COUNT on the port it reads (R75). -/
def countOn : BitVec w := countResult (x.a.setWidth w)

/-- PARITY on the port it reads (R75). -/
def parityOn : BitVec w := parityResult (x.a.setWidth w)

/-- PARITYN on the ports it reads (R75). -/
def parityNOn : BitVec w := parityNResult (x.a.setWidth w) x.k0.toInt

end operations

theorem computes_countW32 : Computes .countW32 (countOn 32) :=
  ⟨fun _ => rfl, fun _ _ => rfl⟩
theorem computes_countW64 : Computes .countW64 (countOn 64) :=
  ⟨fun _ => rfl, fun _ _ => rfl⟩
theorem computes_parityW32 : Computes .parityW32 (parityOn 32) :=
  ⟨fun _ => rfl, fun _ _ => rfl⟩
theorem computes_parityW64 : Computes .parityW64 (parityOn 64) :=
  ⟨fun _ => rfl, fun _ _ => rfl⟩
theorem computes_paritynW32 : Computes .paritynW32 (parityNOn 32) :=
  ⟨fun _ => rfl, fun _ _ => rfl⟩
theorem computes_paritynW64 : Computes .paritynW64 (parityNOn 64) :=
  ⟨fun _ => rfl, fun _ _ => rfl⟩

section results

variable {w : Nat} (a : BitVec w)

/-! ### COUNT and PARITY -/

/-- A population count fits the width it is taken at, so COUNT loses nothing. -/
theorem popcount_lt_two_pow : popcount a < 2 ^ w := (popcount_le a).trans_lt Nat.lt_two_pow_self

theorem popcount_mod_two_lt_two_pow : popcount a % 2 < 2 ^ w :=
  (Nat.mod_le _ _).trans_lt (popcount_lt_two_pow a)

@[simp] theorem toNat_countResult : (countResult a).toNat = popcount a :=
  Nat.mod_eq_of_lt (popcount_lt_two_pow a)

@[simp] theorem toNat_parityResult : (parityResult a).toNat = popcount a % 2 :=
  Nat.mod_eq_of_lt (popcount_mod_two_lt_two_pow a)

theorem countSpec_countResult : CountSpec w a (countResult a) := by
  rw [CountSpec, toNat_countResult, popcount_eq_bitCount]

theorem paritySpec_parityResult : ParitySpec w a (parityResult a) := by
  rw [ParitySpec, toNat_parityResult, popcount_eq_bitCount]

/-! ### PARITYN -/

/-- Counting the `g < f` with a property by `Fin f` or by `Nat.count` is the same. -/
theorem card_filter_fin_eq_count (p : Nat → Prop) [DecidablePred p] (f : Nat) :
    (Finset.univ.filter fun g : Fin f => p g).card = Nat.count p f := by
  rw [Finset.card_filter, Fin.sum_univ_eq_sum_range (fun g => if p g then 1 else 0),
    ← Finset.card_filter, Nat.count_eq_card_filter_range]

/-- A count does not grow where the property fails. -/
theorem count_eq_count_of_le {p : Nat → Prop} [DecidablePred p] {c f : Nat} (hcf : c ≤ f)
    (hp : ∀ g, c ≤ g → ¬p g) : Nat.count p f = Nat.count p c := by
  obtain ⟨rest, rfl⟩ := Nat.exists_eq_add_of_le hcf
  simp [Nat.count_add, hp _ (Nat.le_add_right c _)]

/-- No bit of group ceil(W/n), or of a later one, is a bit of the word (R149). -/
theorem le_of_ceil_le {n g : Nat} (hn : 0 < n) (hg : (w + n - 1) / n ≤ g) : w ≤ g * n := by
  rw [← Nat.lt_succ_iff, Nat.div_lt_iff_lt_mul hn, Nat.succ_mul] at hg
  omega

/-- There are at most W groups, so W rounds are enough (log entry 15). -/
theorem ceil_le_width {n : Nat} (hn : 0 < n) : (w + n - 1) / n ≤ w := by
  have := Nat.le_mul_of_pos_right w hn
  rw [← Nat.lt_succ_iff, Nat.div_lt_iff_lt_mul hn, Nat.succ_mul]
  omega

/-- The W rounds of the loop see the ceil(W/n) groups and then only zeros. -/
theorem count_groups_eq_groupCount {n : Nat} (hn : 0 < n) (k : Nat) :
    Nat.count (fun g => a.getLsbD (g * n + k) = true) w = groupCount a n k := by
  rw [groupCount, card_filter_fin_eq_count fun g => a.getLsbD (g * n + k) = true]
  refine count_eq_count_of_le (ceil_le_width hn) fun g hg => ?_
  rw [BitVec.getLsbD_of_ge a _ (Nat.le_add_right_of_le (le_of_ceil_le hn hg))]
  exact Bool.false_ne_true

theorem parityNSpec_parityNResult (n : Int) : ParityNSpec w a n (parityNResult a n) := by
  refine ⟨fun hn k hk => ?_, fun hn => if_neg hn⟩
  lift n to ℕ using by omega
  rw [parityNResult, if_pos hn, Int.toNat_natCast, getLsbD_foldGroups n k hk,
    card_filter_fin_eq_count (fun g => a.getLsbD (g * n + k) = true),
    count_groups_eq_groupCount a (by omega)]
  simp

end results

/-! ### The statements -/

/-- Settles O9: the population count fits the result and is the number of set positions. -/
theorem countIsPopulationCount : Obligations.CountIsPopulationCount := by
  unfold Obligations.CountIsPopulationCount
  exact ⟨⟨rfl, rfl⟩, fun s => ⟨_, computes_countW32.exec_eq s, countSpec_countResult _⟩,
    fun s => ⟨_, computes_countW64.exec_eq s, countSpec_countResult _⟩⟩

/-- Settles O10: as COUNT, modulo 2. -/
theorem parityIsCountModTwo : Obligations.ParityIsCountModTwo := by
  unfold Obligations.ParityIsCountModTwo
  exact ⟨⟨rfl, rfl⟩, fun s => ⟨_, computes_parityW32.exec_eq s, paritySpec_parityResult _⟩,
    fun s => ⟨_, computes_parityW64.exec_eq s, paritySpec_parityResult _⟩⟩

/-- Settles O11: each round adds one group, and the rounds past ceil(W/n) add nothing. -/
theorem parityNFoldsGroups : Obligations.ParityNFoldsGroups := by
  unfold Obligations.ParityNFoldsGroups
  exact ⟨⟨rfl, rfl⟩, fun s => ⟨_, computes_paritynW32.exec_eq s, parityNSpec_parityNResult _ _⟩,
    fun s => ⟨_, computes_paritynW64.exec_eq s, parityNSpec_parityNResult _ _⟩⟩

end Sys2Proof.Machine
end

section
/-! PROOFS of the laws of spec/41_count_parity.md (R150): each law is an equation between the
operations at any width, and the commands feed it through the ports. -/

namespace Sys2Proof.Machine

section laws

variable {w : Nat} (a : BitVec w)

/-! ### Population counts -/

theorem popcount_zero (w : Nat) : popcount 0#w = 0 := by
  simp [popcount]

theorem popcount_allOnes (w : Nat) : popcount (BitVec.allOnes w) = w := by
  have hset : ∀ k ∈ List.range w, (BitVec.allOnes w).getLsbD k = true := fun k hk => by
    simpa using hk
  rw [popcount, List.countP_eq_length.2 hset, List.length_range]

theorem setWidth_allOnes_of_le {v : Nat} (hwv : w ≤ v) :
    (BitVec.allOnes v).setWidth w = BitVec.allOnes w := by
  refine BitVec.eq_of_getLsbD_eq fun k hk => ?_
  rw [BitVec.getLsbD_setWidth, BitVec.getLsbD_allOnes, BitVec.getLsbD_allOnes]
  simp [hk, hk.trans_le hwv]

/-- The count of a field is the sum of the counts of its two parts. -/
theorem popcount_extractLsb'_add (i m n : Nat) :
    popcount (a.extractLsb' i (m + n)) =
      popcount (a.extractLsb' i m) + popcount (a.extractLsb' (i + m) n) := by
  simp only [popcount, BitVec.getLsbD_extractLsb', List.range_add, List.countP_append,
    List.countP_map, Function.comp_def]
  congr 1 <;> refine List.countP_congr fun k hk => ?_ <;> rw [List.mem_range] at hk
  · simp [hk, Nat.lt_add_right n hk]
  · simp [hk, Nat.add_assoc]

/-! ### RES of COUNT and PARITY -/

theorem setWidth_countResult (hw : w ≤ 64) :
    (countResult a).setWidth 64 = BitVec.ofNat 64 (popcount a) :=
  BitVec.setWidth_ofNat_of_le_of_lt hw (popcount_lt_two_pow a)

theorem setWidth_parityResult (hw : w ≤ 64) :
    (parityResult a).setWidth 64 = BitVec.ofNat 64 (popcount a % 2) :=
  BitVec.setWidth_ofNat_of_le_of_lt hw (popcount_mod_two_lt_two_pow a)

/-- PARITY(x) = COUNT(x) mod 2. -/
theorem setWidth_parityResult_eq_umod (hw : w ≤ 64) :
    (parityResult a).setWidth 64 = (countResult a).setWidth 64 % 2#64 := by
  have hlt : popcount a < 2 ^ 64 := by
    have := popcount_le a
    omega
  rw [setWidth_parityResult a hw, setWidth_countResult a hw]
  apply BitVec.eq_of_toNat_eq
  rw [BitVec.toNat_umod, BitVec.toNat_ofNat, BitVec.toNat_ofNat, Nat.mod_eq_of_lt hlt]
  exact Nat.mod_eq_of_lt (by omega)

/-! ### PARITYN at its two ends -/

theorem getLsbD_parityResult {k : Nat} (hk : k < w) :
    (parityResult a).getLsbD k = decide (k = 0 ∧ popcount a % 2 = 1) := by
  rw [parityResult, BitVec.getLsbD_ofNat, decide_eq_true hk, Bool.true_and]
  cases k with
  | zero => simp
  | succ k =>
    have hhalf : popcount a % 2 / 2 = 0 := by omega
    simp [Nat.testBit_succ, hhalf]

theorem groupCount_one : groupCount a 1 0 = popcount a := by
  rw [← count_groups_eq_groupCount a Nat.one_pos, popcount_eq_bitCount, bitCount,
    card_filter_fin_eq_count fun g => a.getLsbD g = true]
  simp only [Nat.mul_one, Nat.add_zero]

/-- PARITYN(x, 1) = PARITY(x): the groups are the bits. -/
theorem parityNResult_one (hw : 0 < w) : parityNResult a 1 = parityResult a := by
  have hone : SizeIn w 1 := by omega
  refine BitVec.eq_of_getLsbD_eq fun k hk => ?_
  rw [(parityNSpec_parityNResult a 1).1 hone k hk, getLsbD_parityResult a hk]
  have hlow : (k : Int) < 1 ↔ k = 0 := by omega
  simp only [hlow]
  refine decide_eq_decide.2 (and_congr_right fun hk0 => ?_)
  rw [hk0, Int.toNat_one, groupCount_one]

/-- PARITYN(x, W) = x: there is one group. -/
theorem parityNResult_width (hw : 0 < w) : parityNResult a w = a := by
  have hsize : SizeIn w w := by omega
  refine BitVec.eq_of_getLsbD_eq fun k hk => ?_
  have hgroups : (w + w - 1) / w = 1 := Nat.div_eq_of_lt_le (by omega) (by omega)
  rw [(parityNSpec_parityNResult a w).1 hsize k hk, Int.toNat_natCast, groupCount,
    card_filter_fin_eq_count fun g => a.getLsbD (g * w + k) = true, hgroups]
  cases hbit : a.getLsbD k <;> simp [Nat.count_succ, hk, hbit, -BitVec.getLsbD_eq_getElem]

end laws

/-! ### The laws as the commands show them -/

section oneWidth

variable {w : Nat} (hw : w ≤ 64) {count parity parityN : Instr} (hcount : Computes count (countOn w))
  (hparity : Computes parity (parityOn w)) (hparityN : Computes parityN (parityNOn w)) (x : Inputs)

include hw hcount in
/-- RES of COUNT is the number of set bits of the operand. -/
theorem runOn_count : runOn count x = .next ⟨BitVec.ofNat 64 (popcount (x.a.setWidth w)), 0#1⟩ := by
  rw [hcount.runOn_eq, countOn, setWidth_countResult _ hw]

include hw hparity in
/-- RES of PARITY is the number of set bits of the operand modulo 2. -/
theorem runOn_parity :
    runOn parity x = .next ⟨BitVec.ofNat 64 (popcount (x.a.setWidth w) % 2), 0#1⟩ := by
  rw [hparity.runOn_eq, parityOn, setWidth_parityResult _ hw]

include hw hcount hparity hparityN in
/-- The laws of R150 at one width. -/
theorem countParityLaws_of_computes (hpos : 0 < w) :
    (x.a = 0#64 → runOn count x = .next ⟨0#64, 0#1⟩) ∧
    (x.a = BitVec.allOnes 64 → runOn count x = .next ⟨BitVec.ofNat 64 w, 0#1⟩) ∧
    (∃ v, runOn count x = .next ⟨v, 0#1⟩ ∧ runOn parity x = .next ⟨v % 2#64, 0#1⟩) ∧
    runOn parityN { x with k0 := 1#32 } = runOn parity x ∧
    runOn parityN { x with k0 := BitVec.ofNat 32 w } =
      .next ⟨(x.a.setWidth w).setWidth 64, 0#1⟩ := by
  refine ⟨fun ha => ?zero, fun ha => ?allOnes, ⟨_, hcount.runOn_eq x, ?modTwo⟩, ?one, ?width⟩
  case zero =>
    rw [runOn_count hw hcount, ha, BitVec.setWidth_zero, popcount_zero]
  case allOnes =>
    rw [runOn_count hw hcount, ha, setWidth_allOnes_of_le hw, popcount_allOnes]
  case modTwo =>
    rw [hparity.runOn_eq, parityOn, countOn, setWidth_parityResult_eq_umod _ hw]
  case one =>
    have hone : (1#32).toInt = 1 := rfl
    rw [hparityN.runOn_eq, hparity.runOn_eq, parityNOn, hone, parityNResult_one _ hpos, parityOn]
  case width =>
    have htoInt : (BitVec.ofNat 32 w).toInt = w := by
      rw [BitVec.toInt_eq_toNat_of_lt] <;> rw [BitVec.toNat_ofNat] <;> omega
    rw [hparityN.runOn_eq, parityNOn, htoInt, parityNResult_width _ hpos]

end oneWidth

/-- A zero high half adds nothing to the count of the port. -/
theorem popcount_setWidth_of_high_zero {a : Data} (h : a.extractLsb' 32 32 = 0#32) :
    popcount (a.setWidth 64) = popcount (a.setWidth 32) := by
  rw [BitVec.setWidth_eq_extractLsb' (by decide), BitVec.setWidth_eq_extractLsb' (by decide),
    popcount_extractLsb'_add a 0 32 32, h, popcount_zero, Nat.add_zero]

/-- Settles O40: each law from the number of set bits, or from the groups PARITYN folds. -/
theorem countParityLaws : Obligations.CountParityLaws := by
  unfold Obligations.CountParityLaws
  simp only [List.forall_mem_cons]
  refine ⟨⟨fun x => countParityLaws_of_computes (by decide) computes_countW32 computes_parityW32
      computes_paritynW32 x (by decide),
    fun x => countParityLaws_of_computes (by decide) computes_countW64 computes_parityW64
      computes_paritynW64 x (by decide), List.forall_mem_nil _⟩, fun x hhigh => ⟨?_, ?_⟩⟩
  · rw [runOn_count (by decide) computes_countW64, runOn_count (by decide) computes_countW32,
      popcount_setWidth_of_high_zero hhigh]
  · rw [runOn_parity (by decide) computes_parityW64, runOn_parity (by decide) computes_parityW32,
      popcount_setWidth_of_high_zero hhigh]

end Sys2Proof.Machine
end

section
/-! PROOFS of the realisation of COUNT in spec/41_count_parity.md (R141). A word is read as a row of
k-bit fields: each SWAR stage adds neighbouring fields into fields of twice the width, so the sum of
the fields stays the number of set bits, and the multiplication adds the byte fields up. -/

namespace Sys2Proof.Machine

/-! ### Rows of fields -/

/-- The sum of the lowest n k-bit fields of x. -/
def fieldSum (k : Nat) : Nat → Nat → Nat
  | 0, _ => 0
  | n + 1, x => x % 2 ^ k + fieldSum k n (x / 2 ^ k)

/-- Each of the lowest n pairs of k-bit fields of x added up, in a field of 2k bits. -/
def pairSums (k : Nat) : Nat → Nat → Nat
  | 0, _ => 0
  | n + 1, x => x % 2 ^ k + x / 2 ^ k % 2 ^ k + 2 ^ (2 * k) * pairSums k n (x / 2 ^ (2 * k))

/-- The number c in each of n k-bit fields: the masks and the multiplier of R141. -/
def everyField (k c : Nat) : Nat → Nat
  | 0 => 0
  | n + 1 => c + 2 ^ k * everyField k c n

theorem two_pow_two_mul (k : Nat) : 2 ^ (2 * k) = 2 ^ k * 2 ^ k := by
  rw [Nat.two_mul, Nat.pow_add]

/-- Two k-bit fields and their sum fit 2k bits. -/
theorem pair_lt {k : Nat} (hk : 0 < k) (x : Nat) :
    x % 2 ^ k + x / 2 ^ k % 2 ^ k < 2 ^ (2 * k) := by
  have hbase : 2 ≤ 2 ^ k := Nat.le_self_pow hk.ne' 2
  have hlow : x % 2 ^ k < 2 ^ k := Nat.mod_lt _ (by omega)
  have hhigh : x / 2 ^ k % 2 ^ k < 2 ^ k := Nat.mod_lt _ (by omega)
  rw [two_pow_two_mul]
  nlinarith

/-- Adding neighbouring fields keeps the sum of the fields. -/
theorem fieldSum_pairSums {k : Nat} (hk : 0 < k) (n : Nat) :
    ∀ x, fieldSum (2 * k) n (pairSums k n x) = fieldSum k (2 * n) x := by
  induction n with
  | zero => simp [fieldSum]
  | succ n ih =>
    intro x
    rw [pairSums, fieldSum, Nat.add_mul_mod_self_left, Nat.mod_eq_of_lt (pair_lt hk x),
      Nat.add_mul_div_left _ _ (by positivity), Nat.div_eq_of_lt (pair_lt hk x), Nat.zero_add, ih,
      Nat.mul_succ, fieldSum, fieldSum, Nat.div_div_eq_div_mul, ← two_pow_two_mul, Nat.add_assoc]

theorem pairSums_lt {k : Nat} (hk : 0 < k) (n : Nat) : ∀ x, pairSums k n x < 2 ^ (2 * k * n) := by
  induction n with
  | zero => simp [pairSums]
  | succ n ih =>
    intro x
    rw [pairSums, Nat.mul_succ, Nat.pow_add, Nat.mul_comm (2 ^ (2 * k * n))]
    have := pair_lt hk x
    have := Nat.mul_le_mul_left (2 ^ (2 * k)) (ih (x / 2 ^ (2 * k)))
    rw [Nat.mul_succ] at this
    omega

/-- The mask of R141 keeps the low field of each pair. -/
theorem and_everyField_succ (k n x : Nat) :
    x &&& everyField (2 * k) (2 ^ k - 1) (n + 1) =
      x % 2 ^ k + 2 ^ (2 * k) * (x / 2 ^ (2 * k) &&& everyField (2 * k) (2 ^ k - 1) n) := by
  have hmask : 2 ^ k - 1 < 2 ^ (2 * k) := by
    have hpos : 0 < 2 ^ k := by positivity
    have := Nat.pow_le_pow_right Nat.two_pos (Nat.le_mul_of_pos_left k Nat.two_pos)
    omega
  rw [← Nat.mod_add_div (x &&& everyField (2 * k) (2 ^ k - 1) (n + 1)) (2 ^ (2 * k)),
    Nat.and_mod_two_pow, Nat.and_div_two_pow, everyField, Nat.add_mul_mod_self_left,
    Nat.mod_eq_of_lt hmask, Nat.add_mul_div_left _ _ (by positivity), Nat.div_eq_of_lt hmask,
    Nat.zero_add, Nat.and_two_pow_sub_one_eq_mod, two_pow_two_mul, Nat.mod_mul_right_mod]

/-! ### The stages on numbers -/

/-- The nibble stage: even and odd fields cut out and added are the sums of the pairs. -/
theorem and_add_and_eq_pairSums (k n : Nat) : ∀ x,
    (x &&& everyField (2 * k) (2 ^ k - 1) n) + (x / 2 ^ k &&& everyField (2 * k) (2 ^ k - 1) n) =
      pairSums k n x := by
  induction n with
  | zero => simp [everyField, pairSums]
  | succ n ih =>
    intro x
    rw [and_everyField_succ, and_everyField_succ, pairSums, ← ih, Nat.div_right_comm x (2 ^ k)]
    ring

/-- A word is its even fields and its odd fields, these put back in their places. -/
theorem and_add_mul_and_eq_self (k n : Nat) : ∀ x < 2 ^ (2 * k * n),
    (x &&& everyField (2 * k) (2 ^ k - 1) n) +
      2 ^ k * (x / 2 ^ k &&& everyField (2 * k) (2 ^ k - 1) n) = x := by
  induction n with
  | zero =>
    intro x hx
    rw [Nat.mul_zero, Nat.pow_zero, Nat.lt_one_iff] at hx
    simp [hx]
  | succ n ih =>
    intro x hx
    rw [Nat.mul_succ, Nat.pow_add, Nat.mul_comm] at hx
    have hrest := congrArg (2 ^ (2 * k) * ·) (ih _ (Nat.div_lt_of_lt_mul hx))
    have hpair : x % 2 ^ k + 2 ^ k * (x / 2 ^ k % 2 ^ k) = x % 2 ^ (2 * k) := by
      rw [two_pow_two_mul, Nat.mod_mul]
    have hsplit := Nat.mod_add_div x (2 ^ (2 * k))
    rw [and_everyField_succ, and_everyField_succ, Nat.div_right_comm x (2 ^ k)]
    linarith

/-- The pairwise stage: taking the odd bits away once leaves even and odd bits added. -/
theorem sub_odd_bits_eq_pairSums {n x : Nat} (hx : x < 2 ^ (2 * n)) :
    x - (x / 2 &&& everyField 2 1 n) = pairSums 1 n x := by
  have hsum : (x &&& everyField 2 1 n) + (x / 2 &&& everyField 2 1 n) = pairSums 1 n x :=
    and_add_and_eq_pairSums 1 n x
  have hself : (x &&& everyField 2 1 n) + 2 * (x / 2 &&& everyField 2 1 n) = x :=
    and_add_mul_and_eq_self 1 n x hx
  omega

/-- The byte stage: while every nibble is below 8, adding before cutting carries nothing over. -/
theorem add_and_eq_pairSums (n : Nat) : ∀ x, (∀ i, x / 16 ^ i % 16 < 8) →
    (x + x / 16) &&& everyField 8 15 n = pairSums 4 n x := by
  induction n with
  | zero => simp [everyField, pairSums]
  | succ n ih =>
    intro x hx
    have hrest : ∀ i, x / 256 / 16 ^ i % 16 < 8 := fun i => by
      have := hx (2 + i)
      rwa [Nat.pow_add, ← Nat.div_div_eq_div_mul] at this
    have h0 : x % 16 < 8 := by simpa using hx 0
    have h1 : x / 16 % 16 < 8 := by simpa using hx 1
    have h2 : x / 256 % 16 < 8 := by simpa using hx 2
    have hhigh : (x + x / 16) / 256 = x / 256 + x / 256 / 16 := by
      have hnext : x / 16 / 16 = x / 256 := Nat.div_div_eq_div_mul x 16 16
      omega
    have hlow : (x + x / 16) % 16 = x % 16 + x / 16 % 16 := by omega
    have hmask : (x + x / 16) &&& everyField 8 15 (n + 1) =
        (x + x / 16) % 16 + 256 * ((x + x / 16) / 256 &&& everyField 8 15 n) :=
      and_everyField_succ 4 n _
    rw [hmask, hlow, hhigh, ih _ hrest]
    rfl

/-- The sum of two 2-bit fields is below 8. -/
theorem pairSums_two_nibble_lt (n : Nat) : ∀ i x, pairSums 2 n x / 16 ^ i % 16 < 8 := by
  induction n with
  | zero => simp [pairSums]
  | succ n ih =>
    intro i x
    rw [pairSums]
    cases i with
    | zero => omega
    | succ i =>
      have hdiv : (x % 2 ^ 2 + x / 2 ^ 2 % 2 ^ 2 + 2 ^ (2 * 2) * pairSums 2 n (x / 2 ^ (2 * 2))) / 16 =
          pairSums 2 n (x / 2 ^ (2 * 2)) := by omega
      rw [Nat.pow_succ' (m := 16), ← Nat.div_div_eq_div_mul, hdiv]
      exact ih i _

theorem everyField_one_succ (k n : Nat) :
    everyField k 1 (n + 1) = everyField k 1 n + 2 ^ (k * n) := by
  induction n with
  | zero => simp [everyField]
  | succ n ih =>
    have hnext : 1 + 2 ^ k * everyField k 1 n = everyField k 1 n + 2 ^ (k * n) := ih
    rw [everyField, ih, Nat.mul_succ, Nat.pow_add]
    linarith

theorem mul_everyField_one_lt (k n : Nat) {c : Nat} (hc : c < 2 ^ k) :
    c * everyField k 1 n < 2 ^ (k * n) := by
  induction n with
  | zero => simp [everyField]
  | succ n ih =>
    rw [everyField, Nat.mul_succ, Nat.pow_add]
    nlinarith

/-- Multiplying by 1 in every field puts the sum of the fields in the highest of them; what lies below
it is made of sums of fewer fields. -/
theorem exists_mul_everyField_one_eq (k n : Nat) : ∀ s, ∃ q low,
    low ≤ fieldSum k (n + 1) s * everyField k 1 n ∧ s * everyField k 1 (n + 1) =
      2 ^ (k * (n + 1)) * q + (2 ^ (k * n) * fieldSum k (n + 1) s + low) := by
  induction n with
  | zero =>
    intro s
    refine ⟨s / 2 ^ k, 0, Nat.zero_le _, ?_⟩
    simp [everyField, fieldSum, Nat.div_add_mod]
  | succ n ih =>
    intro s
    obtain ⟨q, low, hlow, hmul⟩ := ih (s / 2 ^ k)
    refine ⟨q + s / 2 ^ k, s % 2 ^ k * everyField k 1 (n + 1) + 2 ^ k * low, ?_, ?_⟩
    · rw [fieldSum, Nat.add_mul, everyField]
      have := Nat.mul_le_mul_left (2 ^ k) hlow
      nlinarith
    · have hsplit := Nat.mod_add_div s (2 ^ k)
      have hsum : fieldSum k (n + 1 + 1) s = s % 2 ^ k + fieldSum k (n + 1) (s / 2 ^ k) := rfl
      calc s * everyField k 1 (n + 1 + 1)
          = s % 2 ^ k * everyField k 1 (n + 1) + 2 ^ k * (s / 2 ^ k * everyField k 1 (n + 1)) +
              2 ^ (k * (n + 1)) * (s % 2 ^ k + 2 ^ k * (s / 2 ^ k)) := by
            rw [everyField_one_succ k (n + 1), hsplit]
            nlinarith
        _ = _ := by
            rw [hmul, hsum]
            simp only [Nat.mul_succ, Nat.pow_add]
            ring

/-- The multiply-reduce stage: the highest field of the product is the sum of the fields. -/
theorem mul_everyField_one_mod_div {k n s : Nat} (hsum : fieldSum k (n + 1) s < 2 ^ k) :
    s * everyField k 1 (n + 1) % 2 ^ (k * (n + 1)) / 2 ^ (k * n) = fieldSum k (n + 1) s := by
  obtain ⟨q, low, hlow, hmul⟩ := exists_mul_everyField_one_eq k n s
  have hlow' : low < 2 ^ (k * n) := hlow.trans_lt (mul_everyField_one_lt k n hsum)
  rw [hmul, Nat.mul_add_mod_self_left, Nat.mod_eq_of_lt, Nat.mul_add_div (by positivity),
    Nat.div_eq_of_lt hlow', Nat.add_zero]
  rw [Nat.mul_succ, Nat.pow_add]
  nlinarith

/-! ### The stages on words -/

/-- A number is the sum of its bits where `popcount` counts them. -/
theorem countP_testBit_eq_fieldSum (n : Nat) : ∀ x : Nat,
    (List.range n).countP x.testBit = fieldSum 1 n x := by
  induction n with
  | zero => simp [fieldSum]
  | succ n ih =>
    intro x
    rw [List.range_succ_eq_map, List.countP_cons, List.countP_map, fieldSum, ← ih]
    have htail : x.testBit ∘ Nat.succ = (x / 2 ^ 1).testBit := funext fun k => Nat.testBit_succ x k
    rw [htail, Nat.add_comm, Nat.testBit_zero]
    split <;> simp_all

theorem popcount_eq_fieldSum {w : Nat} (a : BitVec w) : popcount a = fieldSum 1 w a.toNat :=
  countP_testBit_eq_fieldSum w a.toNat

section stages

variable {w n : Nat} {m : BitVec w}

theorem toNat_pairwise_stage (hw : w = 2 * n) (hm : m.toNat = everyField 2 1 n) (a : BitVec w) :
    (a - ((a >>> 1) &&& m)).toNat = pairSums 1 n a.toNat := by
  have hle : ((a >>> 1) &&& m).toNat ≤ a.toNat := by
    rw [BitVec.toNat_and, BitVec.toNat_ushiftRight]
    exact Nat.and_le_left.trans (Nat.shiftRight_le _ _)
  rw [BitVec.toNat_sub_of_le hle, BitVec.toNat_and, BitVec.toNat_ushiftRight, hm]
  exact sub_odd_bits_eq_pairSums (hw ▸ a.isLt)

theorem toNat_nibble_stage {k : Nat} (hk : 0 < k) (hw : w = 2 * k * n)
    (hm : m.toNat = everyField (2 * k) (2 ^ k - 1) n) (s : BitVec w) :
    ((s &&& m) + ((s >>> k) &&& m)).toNat = pairSums k n s.toNat := by
  have hsum : (s &&& m).toNat + ((s >>> k) &&& m).toNat = pairSums k n s.toNat := by
    rw [BitVec.toNat_and, BitVec.toNat_and, BitVec.toNat_ushiftRight, hm, Nat.shiftRight_eq_div_pow,
      and_add_and_eq_pairSums]
  rw [BitVec.toNat_add_of_lt, hsum]
  rw [hsum]
  exact hw ▸ pairSums_lt hk n s.toNat

theorem toNat_byte_stage (hw : w = 8 * n) (hm : m.toNat = everyField 8 15 n) {s : BitVec w}
    (hs : ∀ i, s.toNat / 16 ^ i % 16 < 8) :
    ((s + (s >>> 4)) &&& m).toNat = pairSums 4 n s.toNat := by
  have hlt : pairSums 4 n s.toNat < 2 ^ w := hw ▸ pairSums_lt (by decide) n s.toNat
  have hsums := add_and_eq_pairSums n s.toNat hs
  rw [← hsums, ← hm] at hlt
  rw [← hsums, ← hm, ← Nat.mod_eq_of_lt hlt, Nat.and_mod_two_pow, Nat.mod_eq_of_lt m.isLt,
    BitVec.toNat_and, BitVec.toNat_add, BitVec.toNat_ushiftRight, Nat.shiftRight_eq_div_pow]

theorem toNat_reduce_stage (hw : w = 8 * (n + 1)) (hm : m.toNat = everyField 8 1 (n + 1))
    {s : BitVec w} (hs : fieldSum 8 (n + 1) s.toNat < 2 ^ 8) :
    ((s * m) >>> (8 * n)).toNat = fieldSum 8 (n + 1) s.toNat := by
  subst hw
  rw [BitVec.toNat_ushiftRight, BitVec.toNat_mul, hm, Nat.shiftRight_eq_div_pow,
    mul_everyField_one_mod_div hs]

end stages

/-! ### The whole sequence -/

/-- The sequence of R141 at any width, with its masks, its multiplier and its last shift. -/
def countSwar {w : Nat} (m₁ m₂ m₄ c : BitVec w) (shift : Nat) (a : BitVec w) : BitVec w :=
  let s := a - ((a >>> 1) &&& m₁)
  let s := (s &&& m₂) + ((s >>> 2) &&& m₂)
  let s := (s + (s >>> 4)) &&& m₄
  (s * c) >>> shift

theorem countSwar32_eq_countSwar : countSwar32 =
    countSwar 0x55555555#32 0x33333333#32 0x0F0F0F0F#32 0x01010101#32 24 := rfl

theorem countSwar64_eq_countSwar : countSwar64 =
    countSwar 0x5555555555555555#64 0x3333333333333333#64 0x0F0F0F0F0F0F0F0F#64
      0x0101010101010101#64 56 := rfl

/-- With a count that fits a byte, the four stages give it. -/
theorem countSwar_eq_countResult {w n : Nat} {m₁ m₂ m₄ c : BitVec w} (hw : w = 8 * (n + 1))
    (hw8 : w < 2 ^ 8) (h₁ : m₁.toNat = everyField 2 1 (4 * (n + 1)))
    (h₂ : m₂.toNat = everyField 4 3 (2 * (n + 1))) (h₄ : m₄.toNat = everyField 8 15 (n + 1))
    (hc : c.toNat = everyField 8 1 (n + 1)) (a : BitVec w) :
    countSwar m₁ m₂ m₄ c (8 * n) a = countResult a := by
  apply BitVec.eq_of_toNat_eq
  rw [toNat_countResult]
  unfold countSwar
  extract_lets s₁ s₂ s₄
  have hs₁ : s₁.toNat = pairSums 1 (4 * (n + 1)) a.toNat := toNat_pairwise_stage (by omega) h₁ a
  have hs₂ : s₂.toNat = pairSums 2 (2 * (n + 1)) s₁.toNat :=
    toNat_nibble_stage (by decide) (by omega) h₂ s₁
  have hs₄ : s₄.toNat = pairSums 4 (n + 1) s₂.toNat :=
    toNat_byte_stage hw h₄ fun i => hs₂ ▸ pairSums_two_nibble_lt _ i _
  have hsum : fieldSum 8 (n + 1) s₄.toNat = popcount a := by
    rw [hs₄, fieldSum_pairSums (k := 4) (by decide), hs₂, fieldSum_pairSums (k := 2) (by decide),
      ← Nat.mul_assoc, hs₁, fieldSum_pairSums (k := 1) (by decide), popcount_eq_fieldSum,
      ← Nat.mul_assoc, ← hw]
  rw [toNat_reduce_stage hw hc (hsum ▸ (popcount_le a).trans_lt hw8), hsum]

/-- Settles O45: every stage keeps the sum of the fields, which starts as the number of set bits. -/
theorem swarCountIsExact : Obligations.SwarCountIsExact := by
  unfold Obligations.SwarCountIsExact
  refine ⟨fun s => ?_, fun s => ?_⟩
  · rw [countSwar32_eq_countSwar, countSwar_eq_countResult (n := 3) (by decide) (by decide)
      (by decide) (by decide) (by decide) (by decide)]
    exact computes_countW32.exec_eq s
  · rw [countSwar64_eq_countSwar, countSwar_eq_countResult (n := 7) (by decide) (by decide)
      (by decide) (by decide) (by decide) (by decide)]
    exact computes_countW64.exec_eq s

end Sys2Proof.Machine
end

section
/-! PROOFS of the realisation of PARITY in spec/41_count_parity.md (R148): each fold exclusive-ors the
upper half of a field into the lower half, which then has the parity of the whole field, and 0x6996
holds the parities of the 16 nibbles. -/

namespace Sys2Proof.Machine

/-- The number of set bits of an exclusive-or is that of both operands together, modulo 2. -/
theorem popcount_xor_mod_two {w : Nat} (a b : BitVec w) :
    popcount (a ^^^ b) % 2 = (popcount a + popcount b) % 2 := by
  simp only [popcount, BitVec.getLsbD_xor]
  induction List.range w with
  | nil => rfl
  | cons k ks ih =>
    simp only [List.countP_cons]
    cases a.getLsbD k <;> cases b.getLsbD k <;> simp <;> omega

/-- Folding a field of 2n bits in half keeps its parity. -/
theorem popcount_xor_halves_mod_two {w : Nat} (a : BitVec w) (n : Nat) :
    popcount (a.extractLsb' n n ^^^ a.extractLsb' 0 n) % 2 =
      popcount (a.extractLsb' 0 (n + n)) % 2 := by
  rw [popcount_xor_mod_two, popcount_extractLsb'_add, Nat.zero_add, Nat.add_comm]

/-- One fold of R148: the lower half of the low 2n bits takes their parity. -/
theorem popcount_fold_mod_two {w : Nat} (f : BitVec w) (n : Nat) :
    popcount ((f ^^^ (f >>> n)).extractLsb' 0 n) % 2 = popcount (f.extractLsb' 0 (n + n)) % 2 := by
  have hxor : (f ^^^ (f >>> n)).extractLsb' 0 n = f.extractLsb' n n ^^^ f.extractLsb' 0 n := by
    refine BitVec.eq_of_getLsbD_eq fun k hk => ?_
    simp [hk, Bool.xor_comm, -BitVec.getLsbD_eq_getElem]
  rw [hxor, popcount_xor_halves_mod_two]

/-- 0x6996 shifted down by a nibble has the parity of the nibble at bit 0. -/
theorem nibble_parity_lookup : ∀ q : BitVec 4,
    (0x6996#32 >>> q.toNat) &&& 1#32 = BitVec.ofNat 32 (popcount q % 2) := by
  decide

theorem parityFold32_eq_parityResult (f : BitVec 32) : parityFold32 f = parityResult f := by
  unfold parityFold32
  rw [nibble_parity_lookup, popcount_fold_mod_two, popcount_fold_mod_two, popcount_fold_mod_two,
    BitVec.extractLsb'_eq_self]
  rfl

/-- At W = 64 the two halves are folded together first. -/
theorem setWidth_parityFold64 (a : BitVec 64) : (parityFold64 a).setWidth 64 = parityResult a := by
  rw [parityFold64, parityFold32_eq_parityResult, setWidth_parityResult _ (by decide),
    popcount_xor_halves_mod_two, BitVec.extractLsb'_eq_self]
  rfl

/-- Settles O46: every fold keeps the parity, down to the nibble that 0x6996 looks up. -/
theorem parityFoldIsExact : Obligations.ParityFoldIsExact := by
  unfold Obligations.ParityFoldIsExact
  refine ⟨fun s => ?_, fun s => ?_, by decide⟩
  · rw [parityFold32_eq_parityResult]
    exact computes_parityW32.exec_eq s
  · rw [setWidth_parityFold64]
    exact computes_parityW64.exec_eq s

end Sys2Proof.Machine
end

section
/-! PROOFS of the statements of spec/42_bit_scan.md, one scan at a time (R161 to R165). Each hash turns
the operand into one of 32 values that names the set bit looked for, and the ROM turns it back into
the index of that bit; the 64-bit scans join those of the two halves. -/

namespace Sys2Proof.Machine

/-! ### The lowest and the highest set bit -/

section setBits

variable {w : Nat} {a : BitVec w} {k : Nat}

/-- Bit k is the lowest set bit of a. -/
def IsLowestSetBit (a : BitVec w) (k : Nat) : Prop :=
  a.getLsbD k = true ∧ ∀ j < k, a.getLsbD j = false

/-- Bit k is the highest set bit of a. -/
def IsHighestSetBit (a : BitVec w) (k : Nat) : Prop :=
  a.getLsbD k = true ∧ ∀ j, k < j → a.getLsbD j = false

theorem IsLowestSetBit.lt_width (h : IsLowestSetBit a k) : k < w := BitVec.lt_of_getLsbD h.1

theorem IsHighestSetBit.lt_width (h : IsHighestSetBit a k) : k < w := BitVec.lt_of_getLsbD h.1

theorem exists_isLowestSetBit (h : a ≠ 0#w) : ∃ k, IsLowestSetBit a k :=
  ⟨_, BitVec.getLsbD_true_ctz_of_ne_zero h, fun _ => BitVec.getLsbD_false_of_lt_ctz⟩

theorem exists_isHighestSetBit (h : a ≠ 0#w) : ∃ k, IsHighestSetBit a k :=
  ⟨a.toNat.log2, Nat.testBit_log2 (BitVec.toNat_ne_iff_ne.2 h), fun _ hj =>
    Nat.testBit_lt_two_pow (Nat.lt_log2_self.trans_le (Nat.pow_le_pow_right (by decide) hj))⟩

/-- What SCAN gives, in terms of the lowest set bit. -/
theorem scanSpec_iff {r : BitVec w} : ScanSpec w a r ↔
    (a = 0#w → r.toNat = w) ∧ (a ≠ 0#w → IsLowestSetBit a r.toNat) :=
  and_congr_right fun _ => imp_congr_right fun _ =>
    ⟨fun ⟨_, hbit⟩ => hbit, fun h => ⟨h.lt_width, h⟩⟩

/-- What SCANREVERSE gives, in terms of the highest set bit: no bit from W up is set anyway. -/
theorem scanReverseSpec_iff {r : BitVec w} : ScanReverseSpec w a r ↔
    (a = 0#w → r.toNat = 0) ∧ (a ≠ 0#w → IsHighestSetBit a r.toNat) := by
  refine and_congr_right fun _ => imp_congr_right fun _ => ⟨fun ⟨_, hset, habove⟩ => ⟨hset, ?_⟩,
    fun h => ⟨h.lt_width, h.1, fun j hj _ => h.2 j hj⟩⟩
  intro j hj
  by_cases hjw : j < w
  · exact habove j hj hjw
  · exact BitVec.getLsbD_of_ge a j (by omega)

end setBits

/-! ### The MOD37 hash (R161) -/

section mod37

variable {a : BitVec 32} {k : Nat}

/-- Negation keeps the lowest set bit and flips every bit above it. -/
theorem lowestBit_of_isLowestSetBit (h : IsLowestSetBit a k) : lowestBit a = bitAt 32 k := by
  obtain ⟨hset, hbelow⟩ := h
  refine BitVec.eq_of_getLsbD_eq fun j hj => ?_
  rw [lowestBit, BitVec.getLsbD_and, BitVec.getLsbD_neg, getLsbD_bitAt]
  obtain hjk | rfl | hkj := Nat.lt_trichotomy j k
  · simp [hbelow j hjk, hjk.ne, -BitVec.getLsbD_eq_getElem]
  · have hnone : ¬∃ i < j, a.getLsbD i = true := fun ⟨i, hi, hbit⟩ => by simp [hbelow i hi] at hbit
    simp [hset, hj, hnone, -BitVec.getLsbD_eq_getElem]
  · have hsome : ∃ i < j, a.getLsbD i = true := ⟨k, hkj, hset⟩
    simp [hj, hsome, hkj.ne', -BitVec.getLsbD_eq_getElem]

theorem toNat_lowestBit (h : IsLowestSetBit a k) : (lowestBit a).toNat = 2 ^ k := by
  rw [lowestBit_of_isLowestSetBit h]
  exact (BitVec.toNat_twoPow 32 k).trans
    (Nat.mod_eq_of_lt (Nat.pow_lt_pow_right (by decide) h.lt_width))

theorem mod37Index_of_isLowestSetBit (h : IsLowestSetBit a k) : mod37Index a = 2 ^ k % 37 := by
  rw [mod37Index, toNat_lowestBit h]

/-- The four entries that R30 calls unreachable are no residue of a power of two below 2^32. -/
theorem two_pow_mod_37_not_mem : ∀ k < 32, 2 ^ k % 37 ∉ [7, 14, 19, 28] := by decide

/-- Settles O21: the index is 0 for 0, and otherwise the residue of the lowest set bit. -/
theorem lowestBitHashReachesItsEntriesOnly : Obligations.LowestBitHashReachesItsEntriesOnly := by
  unfold Obligations.LowestBitHashReachesItsEntriesOnly
  refine ⟨fun a ha => ?_, fun a k _ hset hbelow => ?_, fun a => ⟨?_, ?_⟩, rfl⟩
  · subst ha
    exact ⟨rfl, rfl⟩
  · have hlowest : IsLowestSetBit a k := ⟨hset, hbelow⟩
    exact ⟨toNat_lowestBit hlowest, mod37Index_of_isLowestSetBit hlowest⟩
  · by_cases ha : a = 0#32
    · subst ha
      decide
    · obtain ⟨k, hk⟩ := exists_isLowestSetBit ha
      rw [mod37Index_of_isLowestSetBit hk]
      exact two_pow_mod_37_not_mem k hk.lt_width
  · exact Nat.mod_lt _ (by decide)

/-! ### SCAN at W = 32 -/

/-- `scan32` reads one entry of the ROM, at the MOD37 index (R162). -/
theorem scan32_eq_entry (rom : Vector (BitVec 6) 37) (a : BitVec 32) : ∃ v : BitVec 6,
    rom.toList[mod37Index a]? = some v ∧ scan32 rom a = v.setWidth 32 :=
  ⟨_, Vector.getElem?_toList.trans (Vector.getElem?_eq_getElem _), rfl⟩

theorem scan32_zero : scan32 romMod37Contents 0#32 = 32#32 := rfl

/-- ROM_MOD37 inverts the hash of the lowest set bit. -/
theorem toNat_scan32 (h : IsLowestSetBit a k) : (scan32 romMod37Contents a).toNat = k := by
  have hk : k < 32 := h.lt_width
  obtain ⟨v, hentry, hscan⟩ := scan32_eq_entry romMod37Contents a
  rw [mod37Index_of_isLowestSetBit h] at hentry
  have hv : v = BitVec.ofNat 6 k :=
    Option.some.inj (hentry.symm.trans (romMod37_inverts_hash ⟨k, hk⟩))
  rw [hscan, hv, BitVec.toNat_setWidth, BitVec.toNat_ofNat]
  omega

theorem scanSpec_scan32 (a : BitVec 32) : ScanSpec 32 a (scan32 romMod37Contents a) := by
  refine scanSpec_iff.2 ⟨fun ha => ?_, fun ha => ?_⟩
  · rw [ha, scan32_zero]
    rfl
  · obtain ⟨k, hk⟩ := exists_isLowestSetBit ha
    rwa [toNat_scan32 hk]

end mod37

/-! ### The De Bruijn hash (R164) -/

section deBruijn

variable {a v : BitVec 32} {k : Nat}

/-- Bit j of v tells whether a has a set bit among the n bits from j up. -/
def SpreadBy (n : Nat) (a v : BitVec 32) : Prop :=
  ∀ j, v.getLsbD j = true ↔ ∃ i < n, a.getLsbD (j + i) = true

theorem spreadBy_one (a : BitVec 32) : SpreadBy 1 a a := by
  simp [SpreadBy]

/-- One stage of the spread: the window of 2n bits from j is that of n bits from j and that of n bits
from j + n. -/
theorem SpreadBy.double {n : Nat} (h : SpreadBy n a v) : SpreadBy (n + n) a (v ||| (v >>> n)) := by
  intro j
  rw [BitVec.getLsbD_or, BitVec.getLsbD_ushiftRight, Bool.or_eq_true, h, h]
  constructor
  · rintro (⟨i, hi, hbit⟩ | ⟨i, hi, hbit⟩)
    · exact ⟨i, by omega, hbit⟩
    · exact ⟨n + i, by omega, by rwa [show j + (n + i) = n + j + i by omega]⟩
  · rintro ⟨i, hi, hbit⟩
    by_cases hin : i < n
    · exact .inl ⟨i, hin, hbit⟩
    · exact .inr ⟨i - n, by omega, by rwa [show n + j + (i - n) = j + i by omega]⟩

theorem spreadBy_spreadDown (a : BitVec 32) : SpreadBy 32 a (spreadDown a) :=
  (spreadBy_one a).double.double.double.double.double

/-- The spread sets every bit up to the highest set one, and no other (R164). -/
theorem spreadDown_of_isHighestSetBit (h : IsHighestSetBit a k) :
    spreadDown a = ones 32 (k + 1) := by
  have hk : k < 32 := h.lt_width
  obtain ⟨hset, habove⟩ := h
  refine BitVec.eq_of_getLsbD_eq fun j hj => ?_
  rw [Bool.eq_iff_iff, spreadBy_spreadDown a j, getLsbD_ones]
  simp only [hj, decide_true, Bool.true_and, decide_eq_true_eq]
  constructor
  · rintro ⟨i, -, hbit⟩
    by_contra hkj
    simp [habove (j + i) (by omega)] at hbit
  · exact fun hjk => ⟨k - j, by omega, by rwa [Nat.add_sub_cancel' (by omega)]⟩

/-- The top 5 bits of the product are the product shifted down. -/
theorem toNat_deBruijnIndex (v : BitVec 32) :
    (deBruijnIndex v).toNat = ((v * 0x07C4ACDD#32) >>> 27).toNat := by
  have hlt : (v * 0x07C4ACDD#32).toNat < 2 ^ 32 := BitVec.isLt _
  rw [deBruijnIndex, BitVec.extractLsb'_toNat, BitVec.toNat_ushiftRight, Nat.shiftRight_eq_div_pow]
  omega

/-! ### SCANREVERSE at W = 32 -/

/-- `scanReverse32` reads one entry of the ROM, at the De Bruijn index of the spread (R164). -/
theorem scanReverse32_eq_entry (rom : Vector (BitVec 5) 32) (a : BitVec 32) : ∃ v : BitVec 5,
    rom.toList[((spreadDown a * 0x07C4ACDD#32) >>> 27).toNat]? = some v ∧
      scanReverse32 rom a = v.setWidth 32 :=
  ⟨_, by rw [← toNat_deBruijnIndex, Vector.getElem?_toList, Vector.getElem?_eq_getElem], rfl⟩

theorem scanReverse32_zero : scanReverse32 romDbContents 0#32 = 0#32 := rfl

/-- ROM_DB inverts the hash of the spread. -/
theorem toNat_scanReverse32 (h : IsHighestSetBit a k) :
    (scanReverse32 romDbContents a).toNat = k := by
  have hk : k < 32 := h.lt_width
  obtain ⟨v, hentry, hscan⟩ := scanReverse32_eq_entry romDbContents a
  rw [spreadDown_of_isHighestSetBit h] at hentry
  have hv : v = BitVec.ofNat 5 k :=
    Option.some.inj (hentry.symm.trans (romDb_inverts_hash ⟨k, hk⟩))
  rw [hscan, hv, BitVec.toNat_setWidth, BitVec.toNat_ofNat]
  omega

theorem scanReverseSpec_scanReverse32 (a : BitVec 32) :
    ScanReverseSpec 32 a (scanReverse32 romDbContents a) := by
  refine scanReverseSpec_iff.2 ⟨fun ha => ?_, fun ha => ?_⟩
  · rw [ha, scanReverse32_zero]
    rfl
  · obtain ⟨k, hk⟩ := exists_isHighestSetBit ha
    rwa [toNat_scanReverse32 hk]

end deBruijn

/-! ### The two halves of a 64-bit operand (R163, R165) -/

section halves

variable {a : BitVec 64} {k : Nat}

theorem getLsbD_loHalf (a : BitVec 64) (k : Nat) :
    (loHalf a).getLsbD k = (decide (k < 32) && a.getLsbD k) := by
  rw [loHalf, BitVec.getLsbD_extractLsb', Nat.zero_add]

theorem getLsbD_loHalf_of_lt (hk : k < 32) : (loHalf a).getLsbD k = a.getLsbD k := by
  rw [getLsbD_loHalf, decide_eq_true hk, Bool.true_and]

/-- The high half holds every bit from 32 up. -/
theorem getLsbD_hiHalf (a : BitVec 64) (k : Nat) : (hiHalf a).getLsbD k = a.getLsbD (32 + k) := by
  rw [hiHalf, BitVec.getLsbD_extractLsb', Bool.and_eq_right_iff_imp, decide_eq_true_eq]
  exact fun h => by
    have := BitVec.lt_of_getLsbD h
    omega

theorem getLsbD_of_loHalf_eq_zero (h : loHalf a = 0#32) (hk : k < 32) : a.getLsbD k = false := by
  rw [← getLsbD_loHalf_of_lt hk, h, BitVec.getLsbD_zero]

theorem getLsbD_of_hiHalf_eq_zero (h : hiHalf a = 0#32) (hk : 32 ≤ k) : a.getLsbD k = false := by
  rw [← Nat.add_sub_cancel' hk, ← getLsbD_hiHalf, h, BitVec.getLsbD_zero]

theorem eq_zero_of_halves_eq_zero (hlo : loHalf a = 0#32) (hhi : hiHalf a = 0#32) : a = 0#64 := by
  refine BitVec.eq_of_getLsbD_eq fun k _ => ?_
  rw [BitVec.getLsbD_zero]
  by_cases hk : k < 32
  · exact getLsbD_of_loHalf_eq_zero hlo hk
  · exact getLsbD_of_hiHalf_eq_zero hhi (by omega)

theorem isLowestSetBit_of_loHalf (h : IsLowestSetBit (loHalf a) k) : IsLowestSetBit a k := by
  have hk : k < 32 := h.lt_width
  obtain ⟨hset, hbelow⟩ := h
  refine ⟨by rwa [getLsbD_loHalf_of_lt hk] at hset, fun j hj => ?_⟩
  rw [← getLsbD_loHalf_of_lt (hj.trans hk), hbelow j hj]

theorem isLowestSetBit_of_hiHalf (hlo : loHalf a = 0#32) (h : IsLowestSetBit (hiHalf a) k) :
    IsLowestSetBit a (32 + k) := by
  obtain ⟨hset, hbelow⟩ := h
  refine ⟨by rwa [getLsbD_hiHalf] at hset, fun j hj => ?_⟩
  by_cases hj32 : j < 32
  · exact getLsbD_of_loHalf_eq_zero hlo hj32
  · rw [← Nat.add_sub_cancel' (Nat.not_lt.1 hj32), ← getLsbD_hiHalf, hbelow _ (by omega)]

theorem isHighestSetBit_of_hiHalf (h : IsHighestSetBit (hiHalf a) k) :
    IsHighestSetBit a (32 + k) := by
  obtain ⟨hset, habove⟩ := h
  refine ⟨by rwa [getLsbD_hiHalf] at hset, fun j hj => ?_⟩
  rw [← Nat.add_sub_cancel' (show 32 ≤ j by omega), ← getLsbD_hiHalf, habove _ (by omega)]

theorem isHighestSetBit_of_loHalf (hhi : hiHalf a = 0#32) (h : IsHighestSetBit (loHalf a) k) :
    IsHighestSetBit a k := by
  have hk : k < 32 := h.lt_width
  obtain ⟨hset, habove⟩ := h
  refine ⟨by rwa [getLsbD_loHalf_of_lt hk] at hset, fun j hj => ?_⟩
  by_cases hj32 : j < 32
  · rw [← getLsbD_loHalf_of_lt hj32, habove j hj]
  · exact getLsbD_of_hiHalf_eq_zero hhi (by omega)

/-! ### SCAN and SCANREVERSE at W = 64 -/

theorem scan64_of_loHalf_eq_zero (h : loHalf a = 0#32) :
    scan64 romMod37Contents a = (32#32 + scan32 romMod37Contents (hiHalf a)).setWidth 64 :=
  if_neg (by rw [h, scan32_zero]; exact fun hne => hne rfl)

/-- A low half with a set bit reports less than 32. -/
theorem scan64_of_isLowestSetBit_loHalf (h : IsLowestSetBit (loHalf a) k) :
    scan64 romMod37Contents a = (scan32 romMod37Contents (loHalf a)).setWidth 64 := by
  refine if_pos fun h32 => ?_
  have hk : k = 32 := by rw [← toNat_scan32 h, h32]; rfl
  exact absurd h.lt_width (by omega)

theorem scanSpec_scan64 (a : BitVec 64) : ScanSpec 64 a (scan64 romMod37Contents a) := by
  refine scanSpec_iff.2 ⟨fun ha => ?_, fun ha => ?_⟩
  · rw [ha]
    rfl
  · by_cases hlo : loHalf a = 0#32
    · obtain ⟨k, hk⟩ := exists_isLowestSetBit fun hhi => ha (eq_zero_of_halves_eq_zero hlo hhi)
      have hlt : k < 32 := hk.lt_width
      have hres : (scan64 romMod37Contents a).toNat = 32 + k := by
        rw [scan64_of_loHalf_eq_zero hlo, BitVec.toNat_setWidth, BitVec.toNat_add, toNat_scan32 hk,
          BitVec.toNat_ofNat]
        omega
      exact hres ▸ isLowestSetBit_of_hiHalf hlo hk
    · obtain ⟨k, hk⟩ := exists_isLowestSetBit hlo
      rw [scan64_of_isLowestSetBit_loHalf hk, BitVec.toNat_setWidth_of_le (by decide),
        toNat_scan32 hk]
      exact isLowestSetBit_of_loHalf hk

theorem scanReverseSpec_scanReverse64 (a : BitVec 64) :
    ScanReverseSpec 64 a (scanReverse64 romDbContents a) := by
  refine scanReverseSpec_iff.2 ⟨fun ha => ?_, fun ha => ?_⟩
  · rw [ha]
    rfl
  · by_cases hhi : hiHalf a = 0#32
    · obtain ⟨k, hk⟩ := exists_isHighestSetBit fun hlo => ha (eq_zero_of_halves_eq_zero hlo hhi)
      rw [scanReverse64, if_neg (not_not.2 hhi), BitVec.toNat_setWidth_of_le (by decide),
        toNat_scanReverse32 hk]
      exact isHighestSetBit_of_loHalf hhi hk
    · obtain ⟨k, hk⟩ := exists_isHighestSetBit hhi
      have hlt : k < 32 := hk.lt_width
      have hres : (scanReverse64 romDbContents a).toNat = 32 + k := by
        rw [scanReverse64, if_pos hhi, BitVec.toNat_setWidth, BitVec.toNat_add,
          toNat_scanReverse32 hk, BitVec.toNat_ofNat]
        omega
      exact hres ▸ isHighestSetBit_of_hiHalf hk

end halves

/-! ### The commands -/

/-- In a block as built, command `i` writes the W-bit value `f` of port A (R13, R33, R74). -/
def ComputesAsBuilt {w : Nat} (i : Instr) (f : BitVec w → BitVec w) : Prop :=
  ∀ s : State, RomsAsBuilt s → exec i s = writeResult (f (s.a.setWidth w)) s

theorem computesAsBuilt_scanW32 : ComputesAsBuilt .scanW32 (scan32 romMod37Contents) :=
  fun _ ⟨hmod37, _⟩ => hmod37 ▸ rfl
theorem computesAsBuilt_scanW64 : ComputesAsBuilt .scanW64 (scan64 romMod37Contents) :=
  fun _ ⟨hmod37, _⟩ => hmod37 ▸ rfl
theorem computesAsBuilt_scanreverseW32 :
    ComputesAsBuilt .scanreverseW32 (scanReverse32 romDbContents) :=
  fun _ ⟨_, hdb⟩ => hdb ▸ rfl
theorem computesAsBuilt_scanreverseW64 :
    ComputesAsBuilt .scanreverseW64 (scanReverse64 romDbContents) :=
  fun _ ⟨_, hdb⟩ => hdb ▸ rfl

/-- Writing a ROM entry extended to 32 bits is writing the entry. -/
theorem writeResult_setWidth_entry {w : Nat} (hw : w ≤ 32) (v : BitVec w) (s : State) :
    writeResult (v.setWidth 32) s = writeResult v s := by
  rw [writeResult_next, writeResult_next, BitVec.setWidth_setWidth (by omega)]

/-! ### The statements -/

/-- Settles O12: ROM_MOD37 holds the index of the lowest set bit at its residue, and 32 at 0. -/
theorem scanFindsLowestSetBit : Obligations.ScanFindsLowestSetBit := by
  unfold Obligations.ScanFindsLowestSetBit
  refine ⟨⟨rfl, rfl⟩, fun s hroms => ⟨_, computesAsBuilt_scanW32 s hroms, scanSpec_scan32 _⟩,
    fun s hroms => ⟨_, computesAsBuilt_scanW64 s hroms, scanSpec_scan64 _⟩, fun s => ?_⟩
  obtain ⟨v, hentry, hscan⟩ := scan32_eq_entry s.romMod37 (s.a.setWidth 32)
  refine ⟨v, hentry, ?_⟩
  calc exec .scanW32 s = writeResult (scan32 s.romMod37 (s.a.setWidth 32)) s := rfl
    _ = writeResult v s := by rw [hscan, writeResult_setWidth_entry (by decide)]

/-- Settles O13: ROM_DB holds the index of the highest set bit at the hash of its spread, and 0 at
0. -/
theorem scanReverseFindsHighestSetBit : Obligations.ScanReverseFindsHighestSetBit := by
  unfold Obligations.ScanReverseFindsHighestSetBit
  refine ⟨⟨rfl, rfl⟩,
    fun s hroms => ⟨_, computesAsBuilt_scanreverseW32 s hroms, scanReverseSpec_scanReverse32 _⟩,
    fun s hroms => ⟨_, computesAsBuilt_scanreverseW64 s hroms, scanReverseSpec_scanReverse64 _⟩,
    fun s v1 v2 v4 v8 v16 h1 h2 h4 h8 h16 => ?_⟩
  have hspread : v16 = spreadDown (s.a.setWidth 32) := by rw [h16, h8, h4, h2, h1]; rfl
  obtain ⟨v, hentry, hscan⟩ := scanReverse32_eq_entry s.romDb (s.a.setWidth 32)
  refine ⟨v, hspread ▸ hentry, ?_⟩
  calc exec .scanreverseW32 s = writeResult (scanReverse32 s.romDb (s.a.setWidth 32)) s := rfl
    _ = writeResult v s := by rw [hscan, writeResult_setWidth_entry (by decide)]

end Sys2Proof.Machine
end

section
/-! PROOFS of the laws of spec/42_bit_scan.md (R166, R167). Both follow, at any width, from what SCAN and
SCANREVERSE find in x; the commands give the index found as a number. -/

namespace Sys2Proof.Machine

/-! ### Powers of two -/

section powers

variable {w : Nat} {a : BitVec w} {k l h : Nat}

theorem eq_of_getLsbD_bitAt (hbit : (bitAt w k).getLsbD l = true) : l = k := by
  rw [getLsbD_bitAt, Bool.and_eq_true, decide_eq_true_eq, decide_eq_true_eq] at hbit
  exact hbit.2

theorem bitAt_ne_zero (hk : k < w) : bitAt w k ≠ 0#w := fun hzero => by
  have hset : (bitAt w k).getLsbD k = true := by simp [hk, -BitVec.getLsbD_eq_getElem]
  simp [hzero] at hset

/-- The lowest set bit is the highest one exactly in a power of two. -/
theorem lowest_eq_highest_iff (hl : IsLowestSetBit a l) (hh : IsHighestSetBit a h) :
    l = h ↔ ∃ k < w, a = bitAt w k := by
  constructor
  · rintro rfl
    refine ⟨l, hl.lt_width, BitVec.eq_of_getLsbD_eq fun j hj => ?_⟩
    rw [getLsbD_bitAt, decide_eq_true hj, Bool.true_and]
    obtain hjl | rfl | hlj := Nat.lt_trichotomy j l
    · rw [hl.2 j hjl, decide_eq_false hjl.ne]
    · rw [hl.1, decide_eq_true rfl]
    · rw [hh.2 j hlj, decide_eq_false hlj.ne']
  · rintro ⟨k, -, rfl⟩
    rw [eq_of_getLsbD_bitAt hl.1, eq_of_getLsbD_bitAt hh.1]

end powers

/-! ### The laws as the commands show them -/

section oneWidth

variable {w : Nat}

/-- RES of a scan is the index it finds, as a number. -/
theorem ComputesAsBuilt.runOn_eq {i : Instr} {f : BitVec w → BitVec w} (h : ComputesAsBuilt i f)
    (x : Inputs) : runOn i x = .next ⟨BitVec.ofNat 64 (f (x.a.setWidth w)).toNat, 0#1⟩ := by
  rw [runOn, eval, evaluate_encode, h _ (romsAsBuilt_present ⟨rfl, rfl⟩ _), present_a,
    BitVec.ofNat_toNat]
  rfl

variable (hw : w ≤ 64) {get scan scanReverse : Instr} {f g : BitVec w → BitVec w}
  (hget : Computes get (getOn w)) (hscan : ComputesAsBuilt scan f)
  (hscanReverse : ComputesAsBuilt scanReverse g)
  (hf : ∀ a, ScanSpec w a (f a)) (hg : ∀ a, ScanReverseSpec w a (g a))

include hscan hf in
theorem runOn_scan_zero {x : Inputs} (hx : x.a = 0#64) :
    runOn scan x = .next ⟨BitVec.ofNat 64 w, 0#1⟩ := by
  have ha : x.a.setWidth w = 0#w := by rw [hx, BitVec.setWidth_zero]
  rw [hscan.runOn_eq, (hf _).1 ha]

include hscanReverse hg in
theorem runOn_scanReverse_zero {x : Inputs} (hx : x.a = 0#64) :
    runOn scanReverse x = .next ⟨0#64, 0#1⟩ := by
  have ha : x.a.setWidth w = 0#w := by rw [hx, BitVec.setWidth_zero]
  rw [hscanReverse.runOn_eq, (hg _).1 ha]

include hw hscan hf in
theorem runOn_scan_lt {x : Inputs} (hx : x.a.setWidth w ≠ 0#w) :
    ∃ v : Data, runOn scan x = .next ⟨v, 0#1⟩ ∧ v.toNat < w := by
  refine ⟨_, hscan.runOn_eq x, ?_⟩
  have hlt := (scanSpec_iff.1 (hf _)).2 hx |>.lt_width
  rwa [BitVec.toNat_ofNat, Nat.mod_eq_of_lt (by omega)]

include hw hscan hf in
/-- SCAN of 1 << k is k (R167). -/
theorem runOn_scan_bitAt {x : Inputs} {k : Nat} (hk : k < w) (hx : x.a = bitAt 64 k) :
    runOn scan x = .next ⟨BitVec.ofNat 64 k, 0#1⟩ := by
  have ha : x.a.setWidth w = bitAt w k := by rw [hx, setWidth_bitAt (.inr hw)]
  obtain ⟨hset, -⟩ := (scanSpec_iff.1 (hf (bitAt w k))).2 (bitAt_ne_zero hk)
  rw [hscan.runOn_eq, ha, eq_of_getLsbD_bitAt hset]

include hw hscanReverse hg in
/-- SCANREVERSE of 1 << k is k (R167). -/
theorem runOn_scanReverse_bitAt {x : Inputs} {k : Nat} (hk : k < w) (hx : x.a = bitAt 64 k) :
    runOn scanReverse x = .next ⟨BitVec.ofNat 64 k, 0#1⟩ := by
  have ha : x.a.setWidth w = bitAt w k := by rw [hx, setWidth_bitAt (.inr hw)]
  obtain ⟨hset, -⟩ := (scanReverseSpec_iff.1 (hg (bitAt w k))).2 (bitAt_ne_zero hk)
  rw [hscanReverse.runOn_eq, ha, eq_of_getLsbD_bitAt hset]

include hw hget in
/-- GET at the index of a set bit, fed back from RES to K0, is 1 (R167). -/
theorem runOn_get_of_set {x : Inputs} {k : Nat} (hset : (x.a.setWidth w).getLsbD k = true) :
    runOn get { x with k0 := (BitVec.ofNat 64 k).setWidth 32 } = .next ⟨1#64, 0#1⟩ := by
  have hk : k < w := BitVec.lt_of_getLsbD hset
  have hk0 : ((BitVec.ofNat 64 k).setWidth 32).toInt = k := by
    rw [BitVec.toInt_eq_toNat_of_lt] <;> rw [BitVec.toNat_setWidth, BitVec.toNat_ofNat] <;> omega
  rw [hget.runOn_eq, getOn, hk0, getResult_of_indexIn _ (by omega), Int.toNat_natCast, hset,
    BitVec.setWidth_setWidth (by omega)]
  rfl

include hw hget hscan hscanReverse hf hg in
/-- The laws of R167 at one width. -/
theorem scanLaws_of_computes :
    (∀ x : Inputs, x.a.setWidth w ≠ 0#w →
      ∃ l h : Data, runOn scan x = .next ⟨l, 0#1⟩ ∧ runOn scanReverse x = .next ⟨h, 0#1⟩ ∧
        (l = h ↔ ∃ k < w, x.a.setWidth w = bitAt w k) ∧
        runOn get { x with k0 := l.setWidth 32 } = .next ⟨1#64, 0#1⟩ ∧
        runOn get { x with k0 := h.setWidth 32 } = .next ⟨1#64, 0#1⟩ ∧
        (∀ k < l.toNat, x.a.getLsbD k = false) ∧
        (∀ k, h.toNat < k → k < w → x.a.getLsbD k = false)) ∧
    (∀ (x : Inputs) (k : Nat), k < w → x.a = bitAt 64 k →
      runOn scan x = .next ⟨BitVec.ofNat 64 k, 0#1⟩ ∧
      runOn scanReverse x = .next ⟨BitVec.ofNat 64 k, 0#1⟩) := by
  refine ⟨fun x hx => ?_, fun x k hk hxk => ⟨runOn_scan_bitAt hw hscan hf hk hxk,
    runOn_scanReverse_bitAt hw hscanReverse hg hk hxk⟩⟩
  have hl := (scanSpec_iff.1 (hf (x.a.setWidth w))).2 hx
  have hh := (scanReverseSpec_iff.1 (hg (x.a.setWidth w))).2 hx
  have hport {k : Nat} (hk : k < w) : x.a.getLsbD k = (x.a.setWidth w).getLsbD k := by
    rw [BitVec.getLsbD_setWidth, decide_eq_true hk, Bool.true_and]
  have htoNat {k : Nat} (hk : k < w) : (BitVec.ofNat 64 k).toNat = k := by
    rw [BitVec.toNat_ofNat, Nat.mod_eq_of_lt (by omega)]
  refine ⟨_, _, hscan.runOn_eq x, hscanReverse.runOn_eq x, ?_, runOn_get_of_set hw hget hl.1,
    runOn_get_of_set hw hget hh.1, fun k hk => ?_, fun k hhk hk => ?_⟩
  · rw [← BitVec.toNat_inj, htoNat hl.lt_width, htoNat hh.lt_width]
    exact lowest_eq_highest_iff hl hh
  · rw [htoNat hl.lt_width] at hk
    rw [hport (hk.trans hl.lt_width), hl.2 k hk]
  · rw [htoNat hh.lt_width] at hhk
    rw [hport hk, hh.2 k hhk]

end oneWidth

/-- Settles O42: at each width, from the lowest and the highest set bit of x. -/
theorem scanLaws : Obligations.ScanLaws := by
  unfold Obligations.ScanLaws
  simp only [List.forall_mem_cons]
  exact ⟨scanLaws_of_computes (by decide) computes_getW32 computesAsBuilt_scanW32
      computesAsBuilt_scanreverseW32 scanSpec_scan32 scanReverseSpec_scanReverse32,
    scanLaws_of_computes (by decide) computes_getW64 computesAsBuilt_scanW64
      computesAsBuilt_scanreverseW64 scanSpec_scan64 scanReverseSpec_scanReverse64,
    List.forall_mem_nil _⟩

/-- Settles O41: the results for x = 0 are the sentinels, and 1 = 1 << 0 gives SCANREVERSE 0. -/
theorem scanSentinels : Obligations.ScanSentinels := by
  unfold Obligations.ScanSentinels
  refine ⟨fun x hx => ⟨?_, ?_, ?_, ?_⟩, fun x hx => ⟨?_, ?_⟩, fun x => ?_, fun x hx => ?_⟩
  · exact runOn_scan_zero computesAsBuilt_scanW32 scanSpec_scan32 hx
  · exact runOn_scan_zero computesAsBuilt_scanW64 scanSpec_scan64 hx
  · exact runOn_scanReverse_zero computesAsBuilt_scanreverseW32 scanReverseSpec_scanReverse32 hx
  · exact runOn_scanReverse_zero computesAsBuilt_scanreverseW64 scanReverseSpec_scanReverse64 hx
  · exact runOn_scanReverse_bitAt (by decide) computesAsBuilt_scanreverseW32
      scanReverseSpec_scanReverse32 (k := 0) (by decide) hx
  · exact runOn_scanReverse_bitAt (by decide) computesAsBuilt_scanreverseW64
      scanReverseSpec_scanReverse64 (k := 0) (by decide) hx
  · exact runOn_scan_lt (by decide) computesAsBuilt_scanW32 scanSpec_scan32
  · exact runOn_scan_lt (by decide) computesAsBuilt_scanW64 scanSpec_scan64
      (by rwa [BitVec.setWidth_eq])

end Sys2Proof.Machine
end

section
/-! PROOFS of the statements of spec/43_merge_permute.md, one operation at a time (R180 to R189): which
bits of the operands an operation gives is proved once, at any width, and its two commands write that. -/

namespace Sys2Proof.Machine

/-! ### What the commands of this family write -/

section operations

variable (w : Nat) (x : Inputs)

/-- MERGE on the ports it reads (R75). -/
def mergeOn : BitVec w := mergeResult (x.a.setWidth w) (x.b.setWidth w) (x.c.setWidth w)

/-- INTERLEAVE on the ports it reads (R75). -/
def interleaveOn : BitVec w := interleaveResult (x.a.setWidth w) (x.b.setWidth w)

/-- ROTATE on the ports it reads (R75). -/
def rotateOn : BitVec w := rotateResult (x.a.setWidth w) x.k0.toInt

/-- REVERSE on the port it reads (R75). -/
def reverseOn : BitVec w := reverseResult (x.a.setWidth w)

/-- SIGNEXTEND on the ports it reads (R75). -/
def signExtendOn : BitVec w := signExtendResult (x.a.setWidth w) x.k0.toInt

end operations

theorem computes_mergeW32 : Computes .mergeW32 (mergeOn 32) :=
  ⟨fun _ => rfl, fun _ _ => rfl⟩
theorem computes_mergeW64 : Computes .mergeW64 (mergeOn 64) :=
  ⟨fun _ => rfl, fun _ _ => rfl⟩
theorem computes_interleaveW32 : Computes .interleaveW32 (interleaveOn 32) :=
  ⟨fun _ => rfl, fun _ _ => rfl⟩
theorem computes_interleaveW64 : Computes .interleaveW64 (interleaveOn 64) :=
  ⟨fun _ => rfl, fun _ _ => rfl⟩
theorem computes_rotateW32 : Computes .rotateW32 (rotateOn 32) :=
  ⟨fun _ => rfl, fun _ _ => rfl⟩
theorem computes_rotateW64 : Computes .rotateW64 (rotateOn 64) :=
  ⟨fun _ => rfl, fun _ _ => rfl⟩
theorem computes_reverseW32 : Computes .reverseW32 (reverseOn 32) :=
  ⟨fun _ => rfl, fun _ _ => rfl⟩
theorem computes_reverseW64 : Computes .reverseW64 (reverseOn 64) :=
  ⟨fun _ => rfl, fun _ _ => rfl⟩
theorem computes_signextendW32 : Computes .signextendW32 (signExtendOn 32) :=
  ⟨fun _ => rfl, fun _ _ => rfl⟩
theorem computes_signextendW64 : Computes .signextendW64 (signExtendOn 64) :=
  ⟨fun _ => rfl, fun _ _ => rfl⟩

section results

variable {w k : Nat} (a b : BitVec w)

/-! ### MERGE, INTERLEAVE and REVERSE -/

theorem mergeSpec_mergeResult (c : BitVec w) : MergeSpec w a b c (mergeResult a b c) := by
  intro k _
  rw [mergeResult, BitVec.getLsbD_xor, BitVec.getLsbD_and, BitVec.getLsbD_xor]
  cases c.getLsbD k <;> simp

theorem getLsbD_interleaveResult (hk : k < w) : (interleaveResult a b).getLsbD k =
    if k % 2 = 0 then b.getLsbD (k / 2) else a.getLsbD (k / 2) := by
  rw [interleaveResult, getLsbD_ofBits, decide_eq_true hk, Bool.true_and]

theorem interleaveSpec_interleaveResult : InterleaveSpec w a b (interleaveResult a b) := by
  intro k hk
  have hodd : (2 * k + 1) / 2 = k := by omega
  rw [getLsbD_interleaveResult a b (by omega), getLsbD_interleaveResult a b (by omega),
    if_pos (Nat.mul_mod_right 2 k), if_neg (by omega), Nat.mul_div_cancel_left k Nat.two_pos, hodd]
  exact ⟨rfl, rfl⟩

theorem reverseSpec_reverseResult : ReverseSpec w a (reverseResult a) := by
  intro k hk
  rw [reverseResult, getLsbD_ofBits, decide_eq_true hk, Bool.true_and]

/-! ### ROTATE -/

/-- The left amount that R184 and R185 choose is the amount modulo the width. -/
theorem leftAmount_eq_emod {n : Int} (hn : AmountIn w n) :
    (if 0 ≤ n then n else n + w) = n % w := by
  split
  · rw [Int.emod_eq_of_lt (by omega) hn.2]
  · rw [← Int.add_emod_right, Int.emod_eq_of_lt (by omega) (by omega)]

theorem rotateResult_of_amountIn {n : Int} (hn : AmountIn w n) :
    rotateResult a n = rotateBy a (n % w).toNat := by
  rw [rotateResult, if_pos hn, leftAmount_eq_emod hn]

/-- A left rotation by s takes bit k from bit (k - s) mod W. -/
theorem getLsbD_rotateBy_eq_emod {s : Nat} (hs : s < w) (hk : k < w) :
    (rotateBy a s).getLsbD k = a.getLsbD (((k : Int) - s) % w).toNat := by
  rw [getLsbD_rotateBy a s hs hk]
  split
  · rw [← Int.add_emod_right, Int.emod_eq_of_lt (by omega) (by omega)]
    congr 1
    omega
  · rw [Int.emod_eq_of_lt (by omega) (by omega)]
    congr 1
    omega

theorem rotateSpec_rotateResult (n : Int) : RotateSpec w a n (rotateResult a n) := by
  refine ⟨fun hn k hk => ?_, fun hn => if_neg hn⟩
  have hnonneg : 0 ≤ n % w := Int.emod_nonneg n (by omega)
  have hlt : n % w < w := Int.emod_lt_of_pos n (by omega)
  rw [rotateResult_of_amountIn a hn, getLsbD_rotateBy_eq_emod a (by omega) hk,
    Int.toNat_of_nonneg hnonneg, Int.sub_emod_emod]

/-! ### SIGNEXTEND -/

/-- The left shift by W - n puts bit n - 1 on top. -/
theorem msb_shiftLeft_sub {n : Nat} (hn : 0 < n) (hnw : n ≤ w) :
    (a <<< (w - n)).msb = a.getLsbD (n - 1) := by
  have hlt : w - n < w := by omega
  have htop : w - 1 - (w - n) = n - 1 := by omega
  rw [BitVec.msb_shiftLeft, BitVec.getMsbD_eq_getLsbD, decide_eq_true hlt, Bool.true_and, htop]

/-- The right shift brings the low n bits back and fills up with what the left shift put on top. -/
theorem signExtendSpec_signExtendResult (n : Int) :
    SignExtendSpec w a n (signExtendResult a n) := by
  refine ⟨fun hn k hk => ?_, fun hn => if_neg hn⟩
  rw [signExtendResult, if_pos hn]
  lift n to ℕ using by omega
  have hlast : ((n : Int) - 1).toNat = n - 1 := by omega
  rw [Int.toNat_natCast, hlast, BitVec.getLsbD_sshiftRight, decide_eq_false (Nat.not_le.2 hk),
    msb_shiftLeft_sub a (by omega) (by omega)]
  by_cases hkn : k < n
  · have hin : w - n + k < w := by omega
    simp [hkn, hin, -BitVec.getLsbD_eq_getElem]
  · have hout : ¬w - n + k < w := by omega
    simp [hkn, hout, -BitVec.getLsbD_eq_getElem]

end results

/-! ### The statements -/

/-- Settles O14: bit by bit, the masked difference of x and y turns x into y. -/
theorem mergeSelectsByMask : Obligations.MergeSelectsByMask := by
  unfold Obligations.MergeSelectsByMask
  exact ⟨⟨rfl, rfl⟩, fun s => ⟨_, computes_mergeW32.exec_eq s, mergeSpec_mergeResult _ _ _⟩,
    fun s => ⟨_, computes_mergeW64.exec_eq s, mergeSpec_mergeResult _ _ _⟩⟩

/-- Settles O15: positions 2k and 2k + 1 hold bit k of y and of x. -/
theorem interleaveMakesMortonCode : Obligations.InterleaveMakesMortonCode := by
  unfold Obligations.InterleaveMakesMortonCode
  exact ⟨⟨rfl, rfl⟩,
    fun s => ⟨_, computes_interleaveW32.exec_eq s, interleaveSpec_interleaveResult _ _⟩,
    fun s => ⟨_, computes_interleaveW64.exec_eq s, interleaveSpec_interleaveResult _ _⟩⟩

/-- Settles O16: in domain, the rotation to the left by n modulo W. -/
theorem rotateMovesBitsAround : Obligations.RotateMovesBitsAround := by
  unfold Obligations.RotateMovesBitsAround
  exact ⟨⟨rfl, rfl⟩, fun s => ⟨_, computes_rotateW32.exec_eq s, rotateSpec_rotateResult _ _⟩,
    fun s => ⟨_, computes_rotateW64.exec_eq s, rotateSpec_rotateResult _ _⟩⟩

/-- Settles O17: the result is made of the bits of x taken from the top down. -/
theorem reverseReversesBits : Obligations.ReverseReversesBits := by
  unfold Obligations.ReverseReversesBits
  exact ⟨⟨rfl, rfl⟩, fun s => ⟨_, computes_reverseW32.exec_eq s, reverseSpec_reverseResult _⟩,
    fun s => ⟨_, computes_reverseW64.exec_eq s, reverseSpec_reverseResult _⟩⟩

/-- Settles O18: in domain, the two shifts keep the low bits and copy the highest of them. -/
theorem signExtendCopiesSignBit : Obligations.SignExtendCopiesSignBit := by
  unfold Obligations.SignExtendCopiesSignBit
  exact ⟨⟨rfl, rfl⟩,
    fun s => ⟨_, computes_signextendW32.exec_eq s, signExtendSpec_signExtendResult _ _⟩,
    fun s => ⟨_, computes_signextendW64.exec_eq s, signExtendSpec_signExtendResult _ _⟩⟩

end Sys2Proof.Machine
end

section
/-! PROOFS of the laws of spec/43_merge_permute.md (R194, R195): each law is an equation between the
operations at any width, and the commands feed it through the ports. -/

namespace Sys2Proof.Machine

section laws

variable {w : Nat} (a b : BitVec w)

/-! ### R194 -/

theorem reverseResult_reverseResult : reverseResult (reverseResult a) = a := by
  refine BitVec.eq_of_getLsbD_eq fun k hk => ?_
  have hback : w - 1 - (w - 1 - k) = k := by omega
  rw [reverseSpec_reverseResult _ k hk, reverseSpec_reverseResult a _ (by omega), hback]

theorem amountIn_neg {n : Int} (hn : AmountIn w n) : AmountIn w (-n) := by omega

/-- The bit that the second rotation takes stood, before the first one, n places back. -/
theorem rotateResult_neg_rotateResult {n : Int} (hn : AmountIn w n) :
    rotateResult (rotateResult a n) (-n) = a := by
  refine BitVec.eq_of_getLsbD_eq fun k hk => ?_
  have hnonneg : 0 ≤ ((k : Int) - -n) % w := Int.emod_nonneg _ (by omega)
  have hlt : ((k : Int) - -n) % w < w := Int.emod_lt_of_pos _ (by omega)
  have hback : ((k : Int) - -n - n) % w = k := by
    rw [sub_neg_eq_add, add_sub_cancel_right, Int.emod_eq_of_lt (by omega) (by omega)]
  rw [(rotateSpec_rotateResult _ _).1 (amountIn_neg hn) k hk,
    (rotateSpec_rotateResult a n).1 hn _ (by omega), Int.toNat_of_nonneg hnonneg,
    Int.emod_sub_emod, hback, Int.toNat_natCast]

theorem mergeResult_zero : mergeResult a b 0#w = a := by
  rw [mergeResult, BitVec.and_zero, BitVec.xor_zero]

theorem mergeResult_allOnes : mergeResult a b (BitVec.allOnes w) = b := by
  rw [mergeResult, BitVec.and_allOnes, ← BitVec.xor_assoc, BitVec.xor_self, BitVec.zero_xor]

theorem signExtendResult_width (hw : 0 < w) : signExtendResult a w = a := by
  have hsize : SizeIn w w := by omega
  rw [signExtendResult, if_pos hsize, Int.toNat_natCast, Nat.sub_self, BitVec.shiftLeft_zero,
    BitVec.sshiftRight_zero]

/-! ### R195 -/

theorem mergeResult_setWidth (c : BitVec w) (v : Nat) :
    mergeResult (a.setWidth v) (b.setWidth v) (c.setWidth v) = (mergeResult a b c).setWidth v := by
  rw [mergeResult, mergeResult, BitVec.setWidth_xor, BitVec.setWidth_and, BitVec.setWidth_xor]

/-- Operands with no bit from v/2 to w/2 give a Morton code with no bit from v up. -/
theorem interleaveResult_eq_setWidth {v : Nat} (hv : v ≤ w)
    (ha : ∀ k, v / 2 ≤ k → 2 * k < w → a.getLsbD k = false)
    (hb : ∀ k, v / 2 ≤ k → 2 * k < w → b.getLsbD k = false) :
    interleaveResult a b = (interleaveResult (a.setWidth v) (b.setWidth v)).setWidth w := by
  refine eq_setWidth_of_getLsbD hv (fun k hk => ?_) fun k hk hvk => ?_
  · have hhalf : k / 2 < v := by omega
    rw [getLsbD_interleaveResult a b (by omega), getLsbD_interleaveResult _ _ hk,
      BitVec.getLsbD_setWidth, BitVec.getLsbD_setWidth, decide_eq_true hhalf, Bool.true_and,
      Bool.true_and]
  · rw [getLsbD_interleaveResult a b hk, ha _ (by omega) (by omega), hb _ (by omega) (by omega),
      ite_self]

/-- The sign bit of the narrower result is the bit that the wider one copies up. -/
theorem signExtendResult_eq_signExtend {v : Nat} (hv : v ≤ w) {n : Int} (hn : SizeIn v n) :
    signExtendResult a n = (signExtendResult (a.setWidth v) n).signExtend w := by
  have hbit {k : Nat} (hk : k < v) := (signExtendSpec_signExtendResult (a.setWidth v) n).1 hn k hk
  have hport {k : Nat} (hk : k < v) : (a.setWidth v).getLsbD k = a.getLsbD k := by
    rw [BitVec.getLsbD_setWidth, decide_eq_true hk, Bool.true_and]
  refine BitVec.eq_of_getLsbD_eq fun k hk => ?_
  rw [(signExtendSpec_signExtendResult a n).1 ⟨hn.1, by omega⟩ k hk, BitVec.getLsbD_signExtend,
    decide_eq_true hk, Bool.true_and]
  by_cases hkv : k < v
  · rw [if_pos hkv, hbit hkv, hport hkv, hport (by omega)]
  · rw [if_neg hkv, if_neg (by omega), BitVec.msb_eq_getLsbD_last, hbit (by omega),
      hport (by omega), hport (by omega)]
    split
    · congr 1
      omega
    · rfl

end laws

/-! ### The laws as the commands show them -/

/-- The amount -n is the value on K0 negated, since no n in domain is -2^31. -/
theorem toInt_neg_of_amountIn {w : Nat} (hw : w ≤ 64) {k0 : Scalar} (hn : AmountIn w k0.toInt) :
    (-k0).toInt = -k0.toInt := by
  refine BitVec.toInt_neg_of_not_negOverflow fun hoverflow => ?_
  rw [BitVec.negOverflow, beq_iff_eq] at hoverflow
  omega

/-- The laws of R194 at one width. -/
theorem mergePermuteLaws_of_computes {w : Nat} (hw : w ≤ 64) (hpos : 0 < w)
    {reverse rotate merge signExtend : Instr} (hreverse : Computes reverse (reverseOn w))
    (hrotate : Computes rotate (rotateOn w)) (hmerge : Computes merge (mergeOn w))
    (hsignExtend : Computes signExtend (signExtendOn w)) (x : Inputs) :
    (∃ v, runOn reverse x = .next ⟨v, 0#1⟩ ∧
      runOn reverse { x with a := v } = .next ⟨(x.a.setWidth w).setWidth 64, 0#1⟩) ∧
    (AmountIn w x.k0.toInt → ∃ v, runOn rotate x = .next ⟨v, 0#1⟩ ∧
      runOn rotate { x with a := v, k0 := -x.k0 } = .next ⟨(x.a.setWidth w).setWidth 64, 0#1⟩) ∧
    runOn merge { x with c := 0#64 } = .next ⟨(x.a.setWidth w).setWidth 64, 0#1⟩ ∧
    runOn merge { x with c := BitVec.allOnes 64 } = .next ⟨(x.b.setWidth w).setWidth 64, 0#1⟩ ∧
    runOn signExtend { x with k0 := BitVec.ofNat 32 w } =
      .next ⟨(x.a.setWidth w).setWidth 64, 0#1⟩ := by
  refine ⟨⟨_, hreverse.runOn_eq x, ?reverse⟩, fun hn => ⟨_, hrotate.runOn_eq x, ?rotate⟩,
    ?mergeZero, ?mergeAllOnes, ?signExtend⟩
  case reverse =>
    rw [hreverse.runOn_eq, reverseOn, reverseOn, setWidth_setWidth_self hw,
      reverseResult_reverseResult]
  case rotate =>
    rw [hrotate.runOn_eq, rotateOn, rotateOn, setWidth_setWidth_self hw,
      toInt_neg_of_amountIn hw hn, rotateResult_neg_rotateResult _ hn]
  case mergeZero =>
    rw [hmerge.runOn_eq, mergeOn, BitVec.setWidth_zero, mergeResult_zero]
  case mergeAllOnes =>
    rw [hmerge.runOn_eq, mergeOn, setWidth_allOnes_of_le hw, mergeResult_allOnes]
  case signExtend =>
    have htoInt : (BitVec.ofNat 32 w).toInt = w := by
      rw [BitVec.toInt_eq_toNat_of_lt] <;> rw [BitVec.toNat_ofNat] <;> omega
    rw [hsignExtend.runOn_eq, signExtendOn, htoInt, signExtendResult_width _ hpos]

/-- The four examples of R194, on the operands cut to 32 bits. -/
theorem mergePermute_examples :
    signExtendResult 0b1111#32 4 = 0xFFFFFFFF#32 ∧ signExtendResult 0b0111#32 4 = 7#32 ∧
    interleaveResult 0#32 0xFFFF#32 = 0x55555555#32 ∧
    interleaveResult 0xFFFF#32 0#32 = 0xAAAAAAAA#32 := by decide

/-- Settles O43: each law at its width, and the four examples evaluated. -/
theorem mergePermuteLaws : Obligations.MergePermuteLaws := by
  unfold Obligations.MergePermuteLaws
  simp only [List.forall_mem_cons]
  refine ⟨⟨mergePermuteLaws_of_computes (by decide) (by decide) computes_reverseW32
      computes_rotateW32 computes_mergeW32 computes_signextendW32,
    mergePermuteLaws_of_computes (by decide) (by decide) computes_reverseW64 computes_rotateW64
      computes_mergeW64 computes_signextendW64, List.forall_mem_nil _⟩, fun x => ?_⟩
  have hfour : (4#32).toInt = 4 := by decide
  obtain ⟨hneg, hpos, heven, hodd⟩ := mergePermute_examples
  simp [computes_signextendW32.runOn_eq, computes_interleaveW32.runOn_eq, signExtendOn,
    interleaveOn, hfour, hneg, hpos, heven, hodd]

section crossWidth

variable {x : Inputs}

theorem mergeOn_64 (ha : x.a.extractLsb' 32 32 = 0#32) (hb : x.b.extractLsb' 32 32 = 0#32)
    (hc : x.c.extractLsb' 32 32 = 0#32) : mergeOn 64 x = (mergeOn 32 x).setWidth 64 := by
  rw [mergeOn, ← setWidth_setWidth_of_high_zero ha, ← setWidth_setWidth_of_high_zero hb,
    ← setWidth_setWidth_of_high_zero hc, mergeResult_setWidth, mergeOn]

/-- Bits 31 to 16, which INTERLEAVE.W64 takes and INTERLEAVE.W32 does not, when they are 0 (R195). -/
theorem getLsbD_of_field_zero {a : Data} (h : a.extractLsb' 16 16 = 0#16) {k : Nat} (hk : 16 ≤ k)
    (hk32 : k < 32) : a.getLsbD k = false := by
  have hbit := congrArg (fun r => r.getLsbD (k - 16)) h
  have hlow : k - 16 < 16 := by omega
  simpa [hlow, Nat.add_sub_cancel' hk, -BitVec.getLsbD_eq_getElem] using hbit

theorem interleaveOn_64 (ha : x.a.extractLsb' 16 16 = 0#16) (hb : x.b.extractLsb' 16 16 = 0#16) :
    interleaveOn 64 x = (interleaveOn 32 x).setWidth 64 := by
  rw [interleaveOn, interleaveOn, BitVec.setWidth_eq, BitVec.setWidth_eq]
  exact interleaveResult_eq_setWidth _ _ (by decide)
    (fun k hk hkw => getLsbD_of_field_zero ha hk (by omega))
    fun k hk hkw => getLsbD_of_field_zero hb hk (by omega)

theorem signExtendOn_64 (hn : SizeIn 32 x.k0.toInt) :
    signExtendOn 64 x = (signExtendOn 32 x).signExtend 64 := by
  rw [signExtendOn, signExtendOn, BitVec.setWidth_eq,
    signExtendResult_eq_signExtend x.a (by decide) hn]

end crossWidth

/-- Inputs on which a rotation by 1 and a reversal differ from width to width: x = 2^31. -/
def widthMatters : Inputs := ⟨0#8, 0x80000000#64, 0#64, 0#64, 1#32, 0#32, 0#32⟩

/-- Commands of two widths differ when what they write differs. -/
theorem runOn_ne_runOn {i j : Instr} {f : Inputs → BitVec 32} {g : Inputs → BitVec 64}
    (hf : Computes i f) (hg : Computes j g) {x : Inputs} (h : g x ≠ (f x).setWidth 64) :
    runOn j x ≠ runOn i x := by
  rw [hf.runOn_eq, hg.runOn_eq, BitVec.setWidth_eq]
  intro heq
  injection heq with heq
  exact h (congrArg Outputs.res heq)

/-- Settles O44: the bits the wider command adds are those of zero fields, or copies of the sign. -/
theorem mergePermuteAcrossWidths : Obligations.MergePermuteAcrossWidths := by
  unfold Obligations.MergePermuteAcrossWidths
  refine ⟨fun x ha hb hc => ?merge, fun x ha hb => ?interleave, fun x hn => ?signExtend,
    ⟨widthMatters, by decide, by decide, ?rotate⟩, ⟨widthMatters, by decide, ?reverse⟩⟩
  case merge =>
    exact (runOn_eq_runOn computes_mergeW32 computes_mergeW64 (mergeOn_64 ha hb hc)).symm
  case interleave =>
    exact (runOn_eq_runOn computes_interleaveW32 computes_interleaveW64
      (interleaveOn_64 ha hb)).symm
  case signExtend =>
    refine ⟨_, computes_signextendW32.runOn_eq x, ?_⟩
    rw [computes_signextendW64.runOn_eq, BitVec.setWidth_eq, signExtendOn_64 hn]
  case rotate =>
    exact runOn_ne_runOn computes_rotateW32 computes_rotateW64 (by decide)
  case reverse =>
    exact runOn_ne_runOn computes_reverseW32 computes_reverseW64 (by decide)

end Sys2Proof.Machine
end

section
/-! PROOFS of the realisations in spec/43_merge_permute.md (R191 to R193). For the swap stages and the
spreading steps a word is read as a row of d-bit blocks, numbered from 0; the masks of R191 and R192 keep
the blocks of even number. A swap stage exchanges each of these with the next one, and a spreading step
parts each block into two. -/

namespace Sys2Proof.Machine

/-! ### The barrel shifter -/

/-- The right shift of the barrel shifter puts the bits back that its left shift loses. -/
theorem rotateBarrel_eq_rotateResult {w : Nat} (a : BitVec w) {n : Int} (hn : AmountIn w n) :
    rotateBarrel a n = rotateResult a n := by
  have hlt : n % w < w := Int.emod_lt_of_pos n (by omega)
  obtain ⟨s, hs⟩ := Int.eq_ofNat_of_zero_le (Int.emod_nonneg n (by omega : (w : Int) ≠ 0))
  have hright : ((w : Int) - n) % w = (w - s) % w := by rw [← hs, Int.sub_emod_emod]
  rw [rotateResult_of_amountIn a hn, rotateBarrel, hright, hs, Int.toNat_natCast, rotateBy]
  split
  case isTrue hzero =>
    rw [hzero, Int.natCast_zero, sub_zero, Int.emod_self, Int.toNat_zero, BitVec.shiftLeft_zero,
      BitVec.ushiftRight_zero, BitVec.or_self]
  case isFalse hpos =>
    rw [Int.emod_eq_of_lt (by omega) (by omega), Int.toNat_sub]

/-- Settles O49: in domain both shift amounts are those of the rotation to the left by n mod W. -/
theorem barrelShifterRotates : Obligations.BarrelShifterRotates := by
  unfold Obligations.BarrelShifterRotates
  refine ⟨fun s hn => ?_, fun s hn => ?_⟩
  · rw [rotateBarrel_eq_rotateResult _ hn]
    exact computes_rotateW32.exec_eq s
  · rw [rotateBarrel_eq_rotateResult _ hn]
    exact computes_rotateW64.exec_eq s

section blocks

variable {w d D : Nat} {m a v : BitVec w}

/-! ### Blocks -/

/-- The mask m keeps the d-bit blocks of even number. -/
def KeepsEvenBlocks (d : Nat) (m : BitVec w) : Prop :=
  ∀ k < w, m.getLsbD k = decide (k / d % 2 = 0)

/-- Bit r of block c of the mask. -/
theorem KeepsEvenBlocks.getLsbD_block (hm : KeepsEvenBlocks d m) {c r : Nat} (hr : r < d)
    (hk : d * c + r < w) : m.getLsbD (d * c + r) = decide (c % 2 = 0) := by
  rw [hm _ hk, Nat.mul_add_div (by omega), Nat.div_eq_of_lt hr, Nat.add_zero]

/-- A right shift by d brings every block to the place of the one before. -/
theorem getLsbD_ushiftRight_block (v : BitVec w) (c r : Nat) :
    (v >>> d).getLsbD (d * c + r) = v.getLsbD (d * (c + 1) + r) := by
  rw [BitVec.getLsbD_ushiftRight, Nat.mul_succ]
  congr 1
  omega

/-- A left shift by d brings every block to the place of the next one. -/
theorem getLsbD_shiftLeft_block (v : BitVec w) {c r : Nat} (hr : r < d) (hk : d * c + r < w) :
    (v <<< d).getLsbD (d * c + r) = (decide (c ≠ 0) && v.getLsbD (d * (c - 1) + r)) := by
  rw [BitVec.getLsbD_shiftLeft, decide_eq_true hk, Bool.true_and]
  cases c with
  | zero => simp [hr]
  | succ c =>
    have hback : d * (c + 1) + r - d = d * c + r := by rw [Nat.mul_succ]; omega
    have hge : ¬d * (c + 1) + r < d := by rw [Nat.mul_succ]; omega
    simp [hback, hge, -BitVec.getLsbD_eq_getElem]

/-! ### Swapping -/

/-- A block of even number takes the bits of the next one, and a block of odd number those of the one
before. -/
theorem getLsbD_swapStage (hm : KeepsEvenBlocks d m) (v : BitVec w) {c r : Nat} (hr : r < d)
    (hk : d * c + r < w) : (swapStage d m v).getLsbD (d * c + r) =
      v.getLsbD (d * (if c % 2 = 0 then c + 1 else c - 1) + r) := by
  have hle : d * (c - 1) ≤ d * c := Nat.mul_le_mul_left d (Nat.sub_le c 1)
  rw [swapStage, BitVec.getLsbD_or, BitVec.getLsbD_and, getLsbD_ushiftRight_block,
    hm.getLsbD_block hr hk, getLsbD_shiftLeft_block _ hr hk, BitVec.getLsbD_and,
    hm.getLsbD_block hr (by omega)]
  split
  case isTrue heven =>
    have hprev : c ≠ 0 → ¬(c - 1) % 2 = 0 := by omega
    by_cases hc : c = 0 <;> simp [heven, hc, hprev, -BitVec.getLsbD_eq_getElem]
  case isFalse hodd =>
    have hprev : c ≠ 0 ∧ (c - 1) % 2 = 0 := by omega
    simp [hodd, hprev, -BitVec.getLsbD_eq_getElem]

/-- v holds every d-bit block of a in its place, with the bits of the block in reverse order. -/
def BlocksReversed (d : Nat) (a v : BitVec w) : Prop :=
  ∀ c, ∀ r < d, d * c + r < w → v.getLsbD (d * c + r) = a.getLsbD (d * c + (d - 1 - r))

theorem blocksReversed_one (a : BitVec w) : BlocksReversed 1 a a := by
  intro c r hr _
  rw [Nat.lt_one_iff.1 hr]

/-- The block of twice the size is reversed when its reversed halves are exchanged. -/
theorem BlocksReversed.swapStage (hv : BlocksReversed d a v) (hD : D = 2 * d) (hw : D ∣ w)
    (hm : KeepsEvenBlocks d m) : BlocksReversed D a (swapStage d m v) := by
  intro c r hr hk
  obtain ⟨n, hn⟩ := hw
  have hc : c < n := Nat.lt_of_mul_lt_mul_left (a := D) (by omega)
  have hblock : D * (c + 1) ≤ w := hn ▸ Nat.mul_le_mul_left D hc
  have hlow : D * c = d * (2 * c) := by rw [hD, Nat.mul_comm 2, Nat.mul_assoc]
  have hhigh : d * (2 * c + 1) = D * c + d := by rw [hlow]; rfl
  rw [Nat.mul_succ] at hblock
  by_cases hrd : r < d
  · rw [hlow, getLsbD_swapStage hm v hrd (by omega), if_pos (Nat.mul_mod_right 2 c),
      hv _ r hrd (by omega)]
    congr 1
    omega
  · obtain ⟨q, rfl⟩ := Nat.exists_eq_add_of_le (Nat.not_lt.1 hrd)
    have hodd : ¬(2 * c + 1) % 2 = 0 := by omega
    rw [← Nat.add_assoc, ← hhigh, getLsbD_swapStage hm v (by omega) (by omega), if_neg hodd,
      Nat.add_sub_cancel, hv _ q (by omega) (by omega)]
    congr 1
    omega

/-- The one block of W bits. -/
theorem BlocksReversed.eq_reverseResult (hv : BlocksReversed w a v) : v = reverseResult a := by
  refine BitVec.eq_of_getLsbD_eq fun k hk => ?_
  have hbit := hv 0 k hk (by omega)
  rwa [Nat.mul_zero, Nat.zero_add, Nat.zero_add, ← reverseSpec_reverseResult a k hk] at hbit

/-! ### Spreading -/

/-- v holds the d-bit blocks of a, in order, as its blocks of even number, and 0 in the others. -/
def BlocksSpread (d : Nat) (a v : BitVec w) : Prop :=
  ∀ c, ∀ r < d, d * c + r < w →
    v.getLsbD (d * c + r) = (decide (c % 2 = 0) && a.getLsbD (d * (c / 2) + r))

/-- In the low half of the word there is the one block of even number. -/
theorem blocksSpread_low_half (hw : w = 2 * d) (hm : KeepsEvenBlocks d m) (a : BitVec w) :
    BlocksSpread d a (a &&& m) := by
  intro c r hr hk
  have hc : c < 2 := Nat.lt_of_mul_lt_mul_left (a := d) (by omega)
  rw [BitVec.getLsbD_and, hm.getLsbD_block hr hk, Bool.and_comm]
  obtain rfl | rfl : c = 0 ∨ c = 1 := by omega
  · rfl
  · rfl

/-- The low half of each block stays, and the high half moves to the next block of half the size. -/
theorem BlocksSpread.spreadStep (hv : BlocksSpread D a v) (hD : D = 2 * d)
    (hm : KeepsEvenBlocks d m) : BlocksSpread d a (spreadStep d m v) := by
  intro c r hr hk
  rw [Machine.spreadStep, BitVec.getLsbD_and, BitVec.getLsbD_or, getLsbD_shiftLeft_block v hr hk,
    hm.getLsbD_block hr hk]
  obtain ⟨e, rfl | rfl⟩ := Nat.even_or_odd' c
  case inr => simp [-BitVec.getLsbD_eq_getElem]
  have hstay : d * (2 * e) = D * e := by rw [hD]; ring
  have hmove (f : Nat) : d * (2 * (f + 1) - 1) + r = D * f + (d + r) := by
    rw [hD, Nat.mul_succ, Nat.add_sub_assoc (by decide), Nat.mul_add]
    ring
  have htake : d * e = D * (e / 2) + d * (e % 2) := by
    rw [hD, Nat.mul_comm 2, Nat.mul_assoc, ← Nat.mul_add, Nat.div_add_mod]
  rw [hstay] at hk
  rw [hstay, hv e r (by omega) hk, Nat.mul_div_cancel_left e Nat.two_pos, htake]
  cases e with
  | zero => simp [-BitVec.getLsbD_eq_getElem]
  | succ f =>
    rw [Nat.mul_succ] at hk
    rw [hmove, hv f (d + r) (by omega) (by omega)]
    obtain hf | hf := Nat.mod_two_eq_zero_or_one f
    · have hodd : (f + 1) % 2 = 1 := by omega
      have hhalf : (f + 1) / 2 = f / 2 := by omega
      simp [hf, hodd, hhalf, Nat.add_assoc, -BitVec.getLsbD_eq_getElem]
    · have heven : (f + 1) % 2 = 0 := by omega
      simp [hf, heven, -BitVec.getLsbD_eq_getElem]

/-- Blocks of one bit: bit k of the operand is at position 2k. -/
theorem BlocksSpread.getLsbD_one (hv : BlocksSpread 1 a v) {k : Nat} (hk : k < w) :
    v.getLsbD k = (decide (k % 2 = 0) && a.getLsbD (k / 2)) := by
  have hbit := hv k 0 Nat.one_pos (by omega)
  simpa only [Nat.one_mul, Nat.add_zero] using hbit

/-- Spread operands do not overlap when one of them moves up by one bit. -/
theorem BlocksSpread.or_shiftLeft_eq_interleaveResult {b u : BitVec w} (hv : BlocksSpread 1 a v)
    (hu : BlocksSpread 1 b u) : u ||| (v <<< 1) = interleaveResult a b := by
  refine BitVec.eq_of_getLsbD_eq fun k hk => ?_
  rw [getLsbD_interleaveResult a b hk, BitVec.getLsbD_or, BitVec.getLsbD_shiftLeft, hu.getLsbD_one hk,
    hv.getLsbD_one (by omega), decide_eq_true hk, Bool.true_and]
  split
  case isTrue heven =>
    have hprev : ¬k < 1 → ¬(k - 1) % 2 = 0 := by omega
    by_cases hk1 : k < 1 <;> simp [heven, hk1, hprev, -BitVec.getLsbD_eq_getElem]
  case isFalse hodd =>
    have hprev : ¬k < 1 ∧ (k - 1) % 2 = 0 := by omega
    have hhalf : (k - 1) / 2 = k / 2 := by omega
    simp [hodd, hprev, hhalf, -BitVec.getLsbD_eq_getElem]

end blocks

/-! ### The sequences -/

/-- The masks of R191 and R192, each with the size of the blocks of even number it keeps. -/
theorem keepsEvenBlocks_32 :
    KeepsEvenBlocks 16 0x0000FFFF#32 ∧ KeepsEvenBlocks 8 0x00FF00FF#32 ∧
    KeepsEvenBlocks 4 0x0F0F0F0F#32 ∧ KeepsEvenBlocks 2 0x33333333#32 ∧
    KeepsEvenBlocks 1 0x55555555#32 := by
  unfold KeepsEvenBlocks
  decide

theorem keepsEvenBlocks_64 :
    KeepsEvenBlocks 32 0x00000000FFFFFFFF#64 ∧ KeepsEvenBlocks 16 0x0000FFFF0000FFFF#64 ∧
    KeepsEvenBlocks 8 0x00FF00FF00FF00FF#64 ∧ KeepsEvenBlocks 4 0x0F0F0F0F0F0F0F0F#64 ∧
    KeepsEvenBlocks 2 0x3333333333333333#64 ∧ KeepsEvenBlocks 1 0x5555555555555555#64 := by
  unfold KeepsEvenBlocks
  decide

theorem reverseStages32_eq_reverseResult (a : BitVec 32) : reverseStages32 a = reverseResult a := by
  obtain ⟨h16, h8, h4, h2, h1⟩ := keepsEvenBlocks_32
  exact (blocksReversed_one a |>.swapStage rfl (by decide) h1 |>.swapStage rfl (by decide) h2
    |>.swapStage rfl (by decide) h4 |>.swapStage rfl (by decide) h8
    |>.swapStage rfl (by decide) h16).eq_reverseResult

theorem reverseStages64_eq_reverseResult (a : BitVec 64) : reverseStages64 a = reverseResult a := by
  obtain ⟨h32, h16, h8, h4, h2, h1⟩ := keepsEvenBlocks_64
  exact (blocksReversed_one a |>.swapStage rfl (by decide) h1 |>.swapStage rfl (by decide) h2
    |>.swapStage rfl (by decide) h4 |>.swapStage rfl (by decide) h8
    |>.swapStage rfl (by decide) h16 |>.swapStage rfl (by decide) h32).eq_reverseResult

theorem blocksSpread_spread16 (a : BitVec 32) : BlocksSpread 1 a (spread16 a) := by
  obtain ⟨h16, h8, h4, h2, h1⟩ := keepsEvenBlocks_32
  exact blocksSpread_low_half rfl h16 a |>.spreadStep rfl h8 |>.spreadStep rfl h4
    |>.spreadStep rfl h2 |>.spreadStep rfl h1

theorem blocksSpread_spread32 (a : BitVec 64) : BlocksSpread 1 a (spread32 a) := by
  obtain ⟨h32, h16, h8, h4, h2, h1⟩ := keepsEvenBlocks_64
  exact blocksSpread_low_half rfl h32 a |>.spreadStep rfl h16 |>.spreadStep rfl h8
    |>.spreadStep rfl h4 |>.spreadStep rfl h2 |>.spreadStep rfl h1

/-- Settles O47: the steps spread both operands onto the even positions, one of them then moved up. -/
theorem interleaveSpreadingIsExact : Obligations.InterleaveSpreadingIsExact := by
  unfold Obligations.InterleaveSpreadingIsExact
  refine ⟨fun s => ?_, fun s => ?_⟩
  · rw [(blocksSpread_spread16 _).or_shiftLeft_eq_interleaveResult (blocksSpread_spread16 _)]
    exact computes_interleaveW32.exec_eq s
  · rw [(blocksSpread_spread32 _).or_shiftLeft_eq_interleaveResult (blocksSpread_spread32 _)]
    exact computes_interleaveW64.exec_eq s

/-- Settles O48: each stage doubles the size of the reversed blocks, up to the whole word. -/
theorem reverseStagesAreExact : Obligations.ReverseStagesAreExact := by
  unfold Obligations.ReverseStagesAreExact
  refine ⟨fun s => ?_, fun s => ?_⟩
  · rw [reverseStages32_eq_reverseResult]
    exact computes_reverseW32.exec_eq s
  · rw [reverseStages64_eq_reverseResult]
    exact computes_reverseW64.exec_eq s

end Sys2Proof.Machine
end

section
/-! PROOFS of the statements of spec/60_exceptions.md: a step always answers, and the illegal word is the
only event it can report. -/

namespace Sys2Proof.Machine

/-- ILL after an evaluation of a legal word is 0 (R222). -/
theorem OutputsFit.ill_of_legal {s : State} (h : OutputsFit s) (hlegal : legalWord s.cmd = true) :
    s.ill = 0#1 := by
  rw [h.ill_follows_cmd, illOf, if_pos hlegal]

/-- ILL after an evaluation of an illegal word is 1 (R221). -/
theorem OutputsFit.ill_of_illegal {s : State} (h : OutputsFit s)
    (hillegal : legalWord s.cmd = false) : s.ill = 1#1 := by
  rw [h.ill_follows_cmd, illOf, if_neg (ne_true_of_eq_false hillegal)]

/-- Settles O27: a step writes RES and ILL only, and what it writes fits the command word, legal or
not. -/
theorem everyEvaluationCompletes : Obligations.EveryEvaluationCompletes := by
  unfold Obligations.EveryEvaluationCompletes
  intro s
  obtain ⟨r, b, hstep⟩ := step_eq_next s
  have hfit : OutputsFit (s.withOutputs r b) := outputsFit_of_step hstep
  refine ⟨_, hstep, hfit.ill_of_legal, fun hillegal => ?_, rfl, rfl, rfl⟩
  have hill := hfit.ill_of_illegal hillegal
  exact ⟨hill, hfit.illegal_res_zero hill⟩

/-- Settles O26: a word that decodes to no command decodes to an error, which a step reports before
it looks at any operand. -/
theorem illegalWordReported : Obligations.IllegalWordReported := by
  unfold Obligations.IllegalWordReported
  intro s hnone
  cases h : decode s.cmd with
  | command i => exact absurd h (hnone i)
  | illegal e => rw [step_of_illegal h, reportIllegal_next, State.withOutputs]

end Sys2Proof.Machine
end

section
/-! PROOFS of the statements of spec/70_reset_and_hazards.md. No evaluation writes a ROM, so every block
reached from reset is as built; such a block shows `eval` of its inputs once these have settled, and
a change of the inputs starts that wait again exactly when it disturbs something that must hold
still. -/

namespace Sys2Proof.Machine

/-! ### The ROMs (R240) -/

/-- The block is built with both ROM contents. -/
theorem romsAsBuilt_reset : RomsAsBuilt State.reset := ⟨rfl, rfl⟩

/-- An evaluation leaves both ROMs as they are, whatever they hold. -/
theorem roms_of_evaluate {x : Inputs} {s t : State} (h : evaluate x s = .next t) :
    t.romMod37 = s.romMod37 ∧ t.romDb = s.romDb := by
  rw [eq_withOutputs_of_step h]
  exact ⟨rfl, rfl⟩

/-- No sequence of evaluations writes a ROM, whatever the ROMs hold. -/
theorem roms_of_evaluateAll {xs : List Inputs} {s t : State} (h : evaluateAll xs s = .next t) :
    t.romMod37 = s.romMod37 ∧ t.romDb = s.romDb := by
  induction xs generalizing s with
  | nil =>
    cases h
    exact ⟨rfl, rfl⟩
  | cons x xs ih =>
    obtain ⟨u, hu⟩ := evaluate_eq_next x s
    rw [evaluateAll_cons_of_next hu] at h
    obtain ⟨hmod37, hdb⟩ := roms_of_evaluate hu
    obtain ⟨ihmod37, ihdb⟩ := ih h
    exact ⟨ihmod37.trans hmod37, ihdb.trans hdb⟩

/-- A sequence of evaluations leaves a block as built as it was built. -/
theorem romsAsBuilt_of_evaluateAll {xs : List Inputs} {s t : State} (hroms : RomsAsBuilt s)
    (h : evaluateAll xs s = .next t) : RomsAsBuilt t := by
  obtain ⟨hmod37, hdb⟩ := hroms
  obtain ⟨tmod37, tdb⟩ := roms_of_evaluateAll h
  exact ⟨tmod37.trans hmod37, tdb.trans hdb⟩

/-- Settles O35: the ROMs are built with their contents, and by induction on the sequence no
evaluation writes them. -/
theorem romsNeverChange : Obligations.RomsNeverChange := by
  unfold Obligations.RomsNeverChange
  exact ⟨romsAsBuilt_reset, fun _ _ h => romsAsBuilt_of_evaluateAll romsAsBuilt_reset h,
    fun _ _ _ h => roms_of_evaluateAll h⟩

/-! ### Observations before and after T_SETTLE (R241, R244) -/

/-- From T_SETTLE on, a block as built shows `eval` of its inputs. -/
theorem observe_of_settled {elapsed : Nat} (h : Config.tSettle ≤ elapsed) (observation : Nat)
    {s : State} (hroms : RomsAsBuilt s) : observe elapsed observation s = eval s.inputs := by
  rw [observe, if_pos h, outputsOf_step_of_romsAsBuilt hroms]

/-- Before T_SETTLE, any block shows free values. -/
theorem observe_of_unsettled {elapsed : Nat} (h : elapsed < Config.tSettle) (observation : Nat)
    (s : State) : observe elapsed observation s =
      .next ⟨Config.unsettledRes observation, Config.unsettledIll observation⟩ :=
  if_neg (Nat.not_le.2 h)

/-- Inputs changed and then held show their `eval` when the time since the last disturbance reaches
T_SETTLE. -/
theorem observe_change_wait {t : TimedBlock} (hroms : RomsAsBuilt t.block) {x : Inputs} {n : Nat}
    (h : Config.tSettle ≤ (t.change x).stable + n) (observation : Nat) :
    ((t.change x).wait n).observe observation = eval x :=
  observe_of_settled h observation (romsAsBuilt_present hroms x)

/-- At power-up no time has passed, whether or not the inputs first presented differ (R242). -/
theorem powerGood_change_stable (x : Inputs) : (TimedBlock.powerGood.change x).stable = 0 :=
  ite_self 0

/-! ### What disturbs an evaluation (R244, R245) -/

/-- Inputs are CMD and what stands on the operand ports. -/
theorem inputs_eq_of_read {x y : Inputs} (hcmd : x.cmd = y.cmd)
    (hread : ∀ p : Port, p.read x = p.read y) : x = y := by
  have hk0 : x.k0 = y.k0 := eq_of_setWidth_eq (by decide) (hread .K0)
  have hk1 : x.k1 = y.k1 := eq_of_setWidth_eq (by decide) (hread .K1)
  have hk2 : x.k2 = y.k2 := eq_of_setWidth_eq (by decide) (hread .K2)
  cases x
  cases y
  rw [Inputs.mk.injEq]
  exact ⟨hcmd, hread .A, hread .B, hread .C, hk0, hk1, hk2⟩

section undisturbed

variable {x y : Inputs} (h : undisturbed x y = true)

include h

/-- An undisturbed command keeps what stands on the ports it reads. -/
theorem read_eq_of_undisturbed_command {i : Instr} (hi : decode x.cmd = .command i) {p : Port}
    (hp : p ∈ reads i) : p.read x = p.read y := by
  obtain ⟨-, hheld⟩ := (undisturbed_iff x y).1 h
  exact hheld p (by rwa [heldPorts_of_command hi])

/-- Nothing has changed under an undisturbed illegal word. -/
theorem eq_of_undisturbed_illegal (hillegal : ∀ i, decode x.cmd ≠ .command i) : x = y := by
  obtain ⟨hcmd, hheld⟩ := (undisturbed_iff x y).1 h
  exact inputs_eq_of_read hcmd fun p => hheld p (mem_heldPorts_of_illegal hillegal p)

end undisturbed

/-- A command that keeps its word and the ports it reads is undisturbed. -/
theorem undisturbed_of_read_eq {x y : Inputs} {i : Instr} (hi : decode x.cmd = .command i)
    (hcmd : y.cmd = x.cmd) (hread : ∀ p ∈ reads i, p.read y = p.read x) :
    undisturbed x y = true := by
  rw [undisturbed_iff, heldPorts_of_command hi]
  exact ⟨hcmd.symm, fun p hp => (hread p hp).symm⟩

/-- A disturbing change starts the wait for T_SETTLE again. -/
theorem change_of_disturbed {t : TimedBlock} {x : Inputs}
    (h : undisturbed t.block.inputs x = false) : t.change x = ⟨t.block.present x, 0⟩ :=
  congrArg (TimedBlock.mk _) (change_stable_of_disturbed t x h)

/-- Settles O54: an observation looks at the time since the last disturbance only, and a change of
CMD, of a port the command reads, or of any input under an illegal word is a disturbance. -/
theorem settledOutputsAreEval : Obligations.SettledOutputsAreEval := by
  unfold Obligations.SettledOutputsAreEval
  intro elapsed observation s hroms
  refine ⟨fun h => observe_of_settled h observation hroms,
    fun h => observe_of_unsettled h observation s, fun x hchange => ?_, fun x n => ?_⟩
  · refine change_of_disturbed (Bool.eq_false_iff.2 fun hund => ?_)
    obtain ⟨hcmd, -⟩ := (undisturbed_iff s.inputs x).1 hund
    obtain hne | ⟨i, hi, p, hp, hne⟩ | ⟨hillegal, hne⟩ := hchange
    · exact hne hcmd.symm
    · exact hne (read_eq_of_undisturbed_command hund hi hp).symm
    · exact hne (eq_of_undisturbed_illegal hund hillegal).symm
  · have hstable : ((TimedBlock.powerGood.change x).wait n).stable = n := by
      rw [wait_stable, powerGood_change_stable, Nat.zero_add]
    exact ⟨fun h => observe_change_wait romsAsBuilt_reset (h.trans_eq hstable.symm) observation,
      fun h => observe_of_unsettled (hstable.trans_lt h) observation _⟩

/-! ### Unread ports (R245) -/

/-- What a command can depend on of a port is a function of what stands there. -/
theorem view_eq_of_read_eq {x y : Inputs} {p : Port} (w : Nat) (h : p.read x = p.read y) :
    p.view w x = p.view w y := by
  cases p with
  | A | B | C => exact congrArg (fun v : Data => (v.setWidth w).setWidth 64) h
  | K0 | K1 | K2 => exact h

/-- `eval` of a command is a function of its word and the ports it reads (R77). -/
theorem eval_eq_of_read_eq {x y : Inputs} {i : Instr} (hi : decode y.cmd = .command i)
    (hcmd : x.cmd = y.cmd) (hread : ∀ p ∈ reads i, p.read x = p.read y) : eval x = eval y := by
  have hx : evaluate x State.reset = exec i (State.reset.present x) :=
    step_of_command ((congrArg decode hcmd).trans hi)
  have hy : evaluate y State.reset = exec i (State.reset.present y) := step_of_command hi
  rw [eval, eval, hx, hy]
  exact outputsOf_exec_congr i State.reset fun p hp => view_eq_of_read_eq i.width (hread p hp)

/-- Blocks as built whose inputs have one `eval` show the same at every time. -/
theorem observe_congr {s t : State} (hs : RomsAsBuilt s) (ht : RomsAsBuilt t)
    (h : eval s.inputs = eval t.inputs) (elapsed observation : Nat) :
    observe elapsed observation s = observe elapsed observation t := by
  rw [observe, observe, outputsOf_step_of_romsAsBuilt hs, outputsOf_step_of_romsAsBuilt ht, h]

/-- Settles O57: settled outputs are `eval` of the inputs on a block as built, which every sequence
of evaluations leaves as built; and a change of unread ports keeps both `eval` and the time. -/
theorem unreadPortsMayChangeDuringEvaluation :
    Obligations.UnreadPortsMayChangeDuringEvaluation := by
  unfold Obligations.UnreadPortsMayChangeDuringEvaluation
  intro t observation x hroms
  refine ⟨fun n hn => observe_change_wait hroms (Nat.le_add_left_of_le hn) observation,
    fun before s h => outputsOf_evaluate_of_romsAsBuilt (romsAsBuilt_of_evaluateAll hroms h) x,
    fun i hi hcmd hread => ?_⟩
  have hstable : (t.change x).stable = t.stable :=
    change_stable_of_undisturbed t x (undisturbed_of_read_eq hi hcmd hread)
  have heval : eval x = eval t.block.inputs := eval_eq_of_read_eq hi hcmd hread
  constructor
  · rw [TimedBlock.observe, hstable]
    exact observe_congr (romsAsBuilt_present hroms x) hroms heval t.stable observation
  · intro n hn
    rw [← hstable] at hn
    exact (observe_change_wait hroms hn observation).trans heval

end Sys2Proof.Machine
end
